-- ==== Sys2Proof/Word.lean ====
section
/-! DEFINITION. The value types of ASCON-CORE (spec/00_scope.md R6 and R8, spec/20_memory.md R60). -/

namespace Sys2Proof

/-- A word: an unsigned 64-bit integer (R6). -/
abbrev Word := BitVec 64

/-- A byte: an unsigned 8-bit value (R8). -/
abbrev Byte := BitVec 8

/-- A host byte offset into the block's window: 32 bits (R60). -/
abbrev Offset := BitVec 32

end Sys2Proof
end

