-- ==== Sys2Proof/Syntax.lean ====
section
/-! DEFINITION. The commands of ASCON-CORE, one constructor per row of spec/opcode_table.json
(spec/30_encoding.md R103). Every operand other than the round count is a register (R101). -/

namespace Sys2Proof

/-- The commands (30_encoding.md R103). -/
inductive Instr where
  /-- PERM n: n rounds of the permutation on the host-visible state (40_permutation.md R128). -/
  | perm (n : Nat)
  /-- AEAD.ENC: Ascon-AEAD128 encryption (42_aead.md R174). -/
  | aeadEnc
  /-- AEAD.DEC: Ascon-AEAD128 decryption and verification (42_aead.md R175). -/
  | aeadDec
  /-- HASH256: Ascon-Hash256 (43_hash.md R204). -/
  | hash256
  /-- XOF128: Ascon-XOF128 (43_hash.md R205). -/
  | xof128
  /-- CXOF128: Ascon-CXOF128 (43_hash.md R206). -/
  | cxof128
  /-- MAC: Ascon-Mac (44_mac.md R223). -/
  | mac
  /-- PRF: Ascon-Prf (44_mac.md R224). -/
  | prf
  /-- PRFSHORT: Ascon-PrfShort (44_mac.md R225). -/
  | prfshort
  /-- CLEAR: zeroise state, key and nonce (41_sponge.md R151). -/
  | clear
  deriving DecidableEq, Repr

end Sys2Proof
end

