-- ==== Sys2Proof/WellFormed.lean ====
section
/-! DEFINITION. Which commands have an encoding: the round count of PERM fits the 4-bit field R
(spec/30_encoding.md R100, R102). Counts 13 to 15 are well formed: they decode as PERM and fail its check. -/

namespace Sys2Proof

/-- The command has a word of its own (R102: R holds 0 to 15). -/
def Instr.wf (i : Instr) : Bool :=
  match i with
  | .perm n => decide (n < 16)
  | .aeadEnc => true
  | .aeadDec => true
  | .hash256 => true
  | .xof128 => true
  | .cxof128 => true
  | .mac => true
  | .prf => true
  | .prfshort => true
  | .clear => true

end Sys2Proof
end

