-- ==== Sys2Proof/Decode.lean ====
section
/-! DEFINITION. Decode of the command word, total on every word, and its encoder (spec/30_encoding.md R100 to
R106). -/

namespace Sys2Proof

/-- Why a word decodes to UNSUPPORTED (R104, R105). The hardware reports one code for all three. -/
inductive Reject where
  /-- A bit of 63:8 is set. -/
  | reservedBits
  /-- OP is not PERM and the field R is not zero. -/
  | nonzeroRound
  /-- OP is 0x0 or 0xA to 0xE. -/
  | reservedOp
  deriving DecidableEq, Repr

/-- What Decode returns: a command or UNSUPPORTED (R104). -/
inductive Decoded where
  | command (i : Instr)
  | unsupported (why : Reject)
  deriving DecidableEq, Repr

/-- Field OP, bits 3:0 (R100). -/
def wordOp (w : Word) : BitVec 4 := w.extractLsb' 0 4

/-- Field R, bits 7:4 (R100). -/
def wordRound (w : Word) : BitVec 4 := w.extractLsb' 4 4

/-- The reserved bits 63:8 (R100). -/
def wordReserved (w : Word) : BitVec 56 := w.extractLsb' 8 56

/-- The commands whose R field must be 0, by OP (R103, R104). -/
def plainCommand (op : Nat) : Option Instr :=
  match op with
  | 0x2 => some .aeadEnc
  | 0x3 => some .aeadDec
  | 0x4 => some .hash256
  | 0x5 => some .xof128
  | 0x6 => some .cxof128
  | 0x7 => some .mac
  | 0x8 => some .prf
  | 0x9 => some .prfshort
  | 0xF => some .clear
  | _ => none

/-- Decode (R104), in the order of its checks. -/
def decode (w : Word) : Decoded :=
  if wordReserved w ≠ 0 then .unsupported .reservedBits
  else if wordOp w = 0x1 then .command (.perm (wordRound w).toNat)
  else if wordRound w ≠ 0 then .unsupported .nonzeroRound
  else
    match plainCommand (wordOp w).toNat with
    | some i => .command i
    | none => .unsupported .reservedOp

/-- The command of a decoding, if it is one. -/
def Decoded.toOption (d : Decoded) : Option Instr :=
  match d with
  | .command i => some i
  | .unsupported _ => none

/-- The word of a command (R103). -/
def encode (i : Instr) : Word :=
  match i with
  | .perm n => 0x01 ||| (BitVec.ofNat 64 n <<< 4)
  | .aeadEnc => 0x02
  | .aeadDec => 0x03
  | .hash256 => 0x04
  | .xof128 => 0x05
  | .cxof128 => 0x06
  | .mac => 0x07
  | .prf => 0x08
  | .prfshort => 0x09
  | .clear => 0x0F

/-- The command word whose bits are `w`, the bits from `nbits` on zero. A command is one 64-bit word (R100),
so the table's numbering is the word's own. -/
def tableWord (nbits w : Nat) : Word := BitVec.ofNat 64 (w % 2 ^ nbits)

/-- The instruction the decoder reads from the table's bits. -/
def decodeTableWord (nbits w : Nat) : Option Instr :=
  (decode (tableWord nbits w)).toOption

end Sys2Proof
end

