-- ==== Sys2Proof/Config.lean ====
section
/-! DEFINITION. What an implementation of ASCON-CORE fixes (spec/00_scope.md R5) and the one free value
(spec/70_reset_and_hazards.md R270, R271). -/

namespace Sys2Proof

/-- The machine's parameters. `bufBytes` is BUF_BYTES, the only parameter the spec leaves open (R5).
DESIGN CHOICE (log entry 1, safe): State carries it, so that a statement about every state holds for every
buffer size. -/
structure Config where
  bufBytes : Nat
  deriving DecidableEq, Repr

/-- The sizes the spec admits: a multiple of 8 with 64 <= BUF_BYTES <= 2^31 (R5). -/
abbrev Config.valid (c : Config) : Prop :=
  8 ∣ c.bufBytes ∧ 64 ≤ c.bufBytes ∧ c.bufBytes ≤ 2 ^ 31

/-- The spec's default BUF_BYTES, 65536 (R5). -/
def Config.default : Config := { bufBytes := 65536 }

/-- The free value of the model: `freeByte k a` is what buffer byte `a` holds after the `k`-th reset until it
is first written. The spec: "unspecified: each byte is any value, a draw of the model" (R270, R271; log entry 2,
safe: nothing constrains it). -/
opaque Config.freeByte : Nat → Nat → Byte

end Sys2Proof
end

