-- ==== Sys2Proof/Machine/State.lean ====
section
/-! DEFINITION. The state of ASCON-CORE (spec/10_state.md), of its host and of the schedule that interleaves
them, as plain data, and the state after reset (spec/70_reset_and_hazards.md R270). -/

namespace Sys2Proof.Machine

/-- The sponge state: the five words S[0] to S[4] (10_state.md R20). -/
structure Sponge where
  s0 : Word
  s1 : Word
  s2 : Word
  s3 : Word
  s4 : Word
  deriving DecidableEq, Repr

/-- The codes STATUS.ERR can hold (60_exceptions.md R240). Codes 5 to 15 are never written. -/
inductive ErrCode where
  /-- 0: the command succeeded. -/
  | ok
  /-- 1: a parameter check failed. -/
  | invalidParam
  /-- 2: AEAD.DEC computed a tag that differs from the one supplied. -/
  | authFail
  /-- 3: the word does not decode. -/
  | unsupported
  /-- 4: a region is out of the buffer, or OUT overlaps another region. -/
  | range
  deriving DecidableEq, Repr

/-- The response of a host transaction (20_memory.md R60). -/
inductive Resp where
  | okay
  | error
  deriving DecidableEq, Repr

/-- What the host received for one transaction: the data and response of a HostRead, the response of a
HostWrite (20_memory.md R60). -/
inductive Reply where
  | read (data : Word) (resp : Resp)
  | written (resp : Resp)
  deriving DecidableEq, Repr

/-- A statement of the host (30_encoding.md R107), its target an offset of the window and its label the
position of the statement it names. -/
inductive HostStmt where
  /-- `WR <target>, <imm64>`: one HostWrite. -/
  | wr (off : Offset) (data : Word)
  /-- `RD <target>`: one HostRead. -/
  | rd (off : Offset)
  /-- `BNE <target>, <mask>, <value>, <label>`: one HostRead; go to the label if the masked data differ. -/
  | bne (off : Offset) (mask value : Word) (label : Nat)
  deriving DecidableEq, Repr

/-- The host agent: its statements, the position of the next one, and the responses received, oldest first
(70_reset_and_hazards.md R278). DESIGN CHOICE (log entry 3, safe). -/
structure HostAgent where
  program : List HostStmt
  pos : Nat
  log : List Reply
  deriving DecidableEq, Repr

/-- Whose turn a step is (20_memory.md R74; 70_reset_and_hazards.md R270). -/
inductive Turn where
  /-- The core takes its execution step, if a command is in flight. -/
  | core
  /-- The host makes its next transaction, if it has one. -/
  | host
  /-- The platform asserts reset. -/
  | reset
  deriving DecidableEq, Repr

/-- The byte buffer: the bytes written since the last reset, by buffer offset. An offset that is not listed
holds no byte of its own here; the machine reads it as a free value (log entry 2). -/
abbrev Memory := List Host.Cell

/-- The canonical form: offsets strictly rising. A listed offset holds a byte and an unlisted one none, so no
entry equals what an unlisted offset reads as. -/
abbrev Memory.wf (m : Memory) : Prop := m.Pairwise (fun c d => c.1 < d.1)

/-- Every listed offset is below `n`. -/
abbrev Memory.below (m : Memory) (n : Nat) : Prop := ∀ c ∈ m, c.1 < n

/-- The whole state. -/
structure State where
  /-- S[0] to S[4] (10_state.md R20). -/
  sponge : Sponge
  /-- KEY0 and KEY1 (R22). -/
  key0 : Word
  key1 : Word
  /-- NONCE0 and NONCE1 (R23). -/
  nonce0 : Word
  nonce1 : Word
  /-- The VALUE fields of the six region registers (R24). -/
  auxPtr : BitVec 32
  auxLen : BitVec 32
  inPtr : BitVec 32
  inLen : BitVec 32
  outPtr : BitVec 32
  outLen : BitVec 32
  /-- CTRL.IE (R25). -/
  ie : Bool
  /-- STATUS.DONE, WERR, ERR and AUTHOK (R26); STATUS.BUSY is `pending.isSome` (R30, log entry 5). -/
  done : Bool
  werr : Bool
  err : ErrCode
  authok : Bool
  /-- CMDREG, the last accepted command word (R27). -/
  cmdReg : Word
  /-- PENDING, the accepted command word still to be executed; none when it is invalid (R30). -/
  pending : Option Word
  /-- BUF (20_memory.md R64). -/
  buf : Memory
  /-- BUF_BYTES, which no step changes (00_scope.md R5, log entry 1). -/
  cfg : Config
  /-- How many resets there have been: the model's own counter, the argument of the free value (log entry 2). -/
  resets : Nat
  /-- The turns to come: the model's own field (log entry 4). -/
  schedule : List Turn
  /-- The host agent: the model's own field (log entry 3). -/
  host : HostAgent
  deriving DecidableEq, Repr

/-- Why a step could stop the machine: there is no such reason. ASCON-CORE has no trap, an error is a code in
STATUS.ERR (60_exceptions.md R245), and MemRead and MemWrite cannot fault (20_memory.md R67). Nobody raises a
fault (safe, log entry 9). -/
inductive Fault where
  deriving DecidableEq, Repr

/-- Why a step could be refused. -/
inductive Refusal where
  /-- An instruction with no meaning in the model; raised by an arm of `exec` only, and by no arm now (safe). -/
  | notModelled (mnemonic : String)
  deriving DecidableEq, Repr

/-- The answer of a step. -/
abbrev Result := Host.Outcome State Fault Refusal

/-- The all-zero sponge state. -/
def Sponge.zero : Sponge := { s0 := 0, s1 := 0, s2 := 0, s3 := 0, s4 := 0 }

/-- The state after reset (70_reset_and_hazards.md R270): every register 0, idle, nothing in flight, the buffer
unspecified. The parameter is the spec's default (log entry 1). The model's own fields are empty: DESIGN
CHOICE (log entries 2, 3 and 4). -/
def State.reset : State where
  sponge := Sponge.zero
  key0 := 0
  key1 := 0
  nonce0 := 0
  nonce1 := 0
  auxPtr := 0
  auxLen := 0
  inPtr := 0
  inLen := 0
  outPtr := 0
  outLen := 0
  ie := false
  done := false
  werr := false
  err := .ok
  authok := false
  cmdReg := 0
  pending := none
  buf := []
  cfg := Config.default
  resets := 0
  schedule := []
  host := { program := [], pos := 0, log := [] }

end Sys2Proof.Machine
end

