-- ==== Sys2Proof/Machine/Convert.lean ====
section
/-! DEFINITION. The little-endian converters (spec/20_memory.md R68 to R72) and the rotation
(spec/40_permutation.md R120). -/

namespace Sys2Proof.Machine

/-- LE64 (R68): byte j of the sequence becomes bits 8j+7:8j. Applied to 8 bytes only. -/
def le64 (b : List Byte) : Word :=
  match b with
  | [] => 0
  | x :: xs => x.zeroExtend 64 ||| (le64 xs <<< 8)

/-- BYTES8 (R69): the eight bytes of a word, least significant first. -/
def bytes8 (w : Word) : List Byte :=
  [w.extractLsb' 0 8, w.extractLsb' 8 8, w.extractLsb' 16 8, w.extractLsb' 24 8,
   w.extractLsb' 32 8, w.extractLsb' 40 8, w.extractLsb' 48 8, w.extractLsb' 56 8]

/-- B[a..b) of R8, as `slice B a (b - a)`. -/
def slice (b : List Byte) (start len : Nat) : List Byte := (b.drop start).take len

/-- The first `k` blocks of `r` bytes of a sequence. -/
def blocks (r : Nat) (k : Nat) (x : List Byte) : List (List Byte) :=
  match k with
  | 0 => []
  | k + 1 => x.take r :: blocks r k (x.drop r)

/-- `0x00^k` of R8. -/
def zeroBytes (k : Nat) : List Byte := List.replicate k 0

/-- LoadState (R70): the five words of a 40-byte sequence. -/
def loadState (b : List Byte) : Sponge where
  s0 := le64 (slice b 0 8)
  s1 := le64 (slice b 8 8)
  s2 := le64 (slice b 16 8)
  s3 := le64 (slice b 24 8)
  s4 := le64 (slice b 32 8)

/-- The words of a block of 8m bytes (R71). -/
def blockWords (x : List Byte) : List Word := (blocks 8 (x.length / 8) x).map le64

/-- Circular right rotation (40_permutation.md R120), for amounts 1 to 63. -/
def rotr64 (x : Word) (n : Nat) : Word := (x >>> n) ||| (x <<< (64 - n))

/-- Byte k of the 40-byte view of the state (10_state.md R21). -/
def Sponge.byteView (s : Sponge) : List Byte :=
  bytes8 s.s0 ++ bytes8 s.s1 ++ bytes8 s.s2 ++ bytes8 s.s3 ++ bytes8 s.s4

end Sys2Proof.Machine
end

