-- ==== Sys2Proof/Machine/Flags.lean ====
section
/-! DEFINITION. STATUS, CTRL and the interrupt output as the host sees them (spec/10_state.md R25, R26,
spec/60_exceptions.md R240, R247). No command computes a flag from data (10_state.md R29). -/

namespace Sys2Proof.Machine

/-- The 4-bit code of an error (R240). -/
def ErrCode.code (e : ErrCode) : Nat :=
  match e with
  | .ok => 0
  | .invalidParam => 1
  | .authFail => 2
  | .unsupported => 3
  | .range => 4

/-- STATUS.BUSY: a command is in flight (10_state.md R26, R30). -/
def State.busy (s : State) : Bool := s.pending.isSome

/-- STATUS as read: BUSY bit 0, DONE bit 1, WERR bit 2, ERR bits 7:4, AUTHOK bit 8, all others 0 (R26). -/
def State.statusWord (s : State) : Word :=
  BitVec.ofNat 64 (s.busy.toNat + 2 * s.done.toNat + 4 * s.werr.toNat + 16 * s.err.code + 256 * s.authok.toNat)

/-- CTRL as read: IE bit 0, all others 0 (R25). -/
def State.ctrlWord (s : State) : Word := BitVec.ofNat 64 s.ie.toNat

/-- The level interrupt output (60_exceptions.md R247). -/
def State.irq (s : State) : Bool := s.ie && s.done

end Sys2Proof.Machine
end

