-- ==== Sys2Proof/Machine/Ops.lean ====
section
/-! DEFINITION. The named operations over the buffer and the registers, and the two ends of a command:
acceptance and completion (spec/20_memory.md R64 to R67, spec/41_sponge.md R146, R147, spec/60_exceptions.md
R240, R241). -/

namespace Sys2Proof.Machine

/-- The byte the buffer lists at an offset, if it lists one. -/
def Memory.byte? (m : Memory) (a : Nat) : Option Byte := List.lookup a m

/-- The cells of a run of bytes from an offset on. -/
def cellsFrom (a : Nat) (v : List Byte) : Memory :=
  match v with
  | [] => []
  | b :: bs => (a, b) :: cellsFrom (a + 1) bs

/-- The buffer with the bytes `v` stored from offset `a` on; the form stays canonical. -/
def Memory.store (m : Memory) (a : Nat) (v : List Byte) : Memory :=
  m.filter (fun c => decide (c.1 < a)) ++ cellsFrom a v ++ m.filter (fun c => decide (a + v.length ≤ c.1))

/-- BUF[a]: the byte written last, or the free value while none was written since the last reset (R64;
70_reset_and_hazards.md R270; log entry 2). -/
def State.byteAt (s : State) (a : Nat) : Byte :=
  match s.buf.byte? a with
  | some b => b
  | none => Config.freeByte s.resets a

/-- MemRead (20_memory.md R67). -/
def State.memRead (s : State) (a n : Nat) : List Byte :=
  match n with
  | 0 => []
  | n + 1 => s.byteAt a :: s.memRead (a + 1) n

/-- MemWrite (20_memory.md R67). -/
def State.memWrite (s : State) (a : Nat) (v : List Byte) : State := { s with buf := s.buf.store a v }

/-- `S[i] <- ...` for all five words (10_state.md R20). -/
def State.withSponge (s : State) (x : Sponge) : State := { s with sponge := x }

/-- `for i in 0..4: S[i] <- 0` (41_sponge.md R149). -/
def State.zeroSponge (s : State) : State := s.withSponge Sponge.zero

/-- STATUS.WERR <- 1: a write was dropped (60_exceptions.md R244). -/
def State.setWerr (s : State) : State := { s with werr := true }

/-- Acceptance of a command word while BUSY = 0 (41_sponge.md R146). -/
def State.issue (s : State) (w : Word) : State :=
  { s with cmdReg := w, pending := some w, done := false, err := .ok, authok := false }

/-- Completion of the command in flight (41_sponge.md R147). -/
def State.complete (s : State) (e : ErrCode) (auth : Bool) : State :=
  { s with err := e, authok := auth, pending := none, done := true }

/-- `raise E` of a check (60_exceptions.md R241): the command ends with error E and changes nothing but STATUS.
This is the machine's one form of exception; there is no trap to enter or return from (R245, R246). -/
def State.fail (s : State) (e : ErrCode) : Result := .next (s.complete e false)

end Sys2Proof.Machine
end

