-- ==== Sys2Proof/Machine/Operands.lean ====
section
/-! DEFINITION. The operands of the commands: the buffer regions, their checks, and the key and nonce
(spec/41_sponge.md R142 to R144), and the check order (spec/60_exceptions.md R242). -/

namespace Sys2Proof.Machine

/-- A region: buffer bytes `ptr` to `ptr + len - 1` (R142). -/
structure Region where
  ptr : Nat
  len : Nat
  deriving DecidableEq, Repr

/-- The AUX region (R142). -/
def State.auxRegion (s : State) : Region := { ptr := s.auxPtr.toNat, len := s.auxLen.toNat }

/-- The IN region (R142). -/
def State.inRegion (s : State) : Region := { ptr := s.inPtr.toNat, len := s.inLen.toNat }

/-- The OUT region (R142). -/
def State.outRegion (s : State) : Region := { ptr := s.outPtr.toNat, len := s.outLen.toNat }

/-- The range check (R142): the sum is taken without overflow, and a zero-length region is checked too. -/
def Region.inBuffer (r : Region) (bufBytes : Nat) : Bool := decide (r.ptr + r.len ≤ bufBytes)

/-- When two regions overlap (R143). -/
def Region.overlaps (a b : Region) : Bool :=
  decide (0 < a.len) && decide (0 < b.len) && decide (a.ptr < b.ptr + b.len) && decide (b.ptr < a.ptr + a.len)

/-- The range and overlap checks of a command that uses IN and OUT, and AUX where `useAux` says so (R142,
R143). A region the command does not use is not checked. -/
def State.regionsOk (s : State) (useAux : Bool) : Bool :=
  (!useAux || (s.auxRegion.inBuffer s.cfg.bufBytes && !s.outRegion.overlaps s.auxRegion)) &&
    s.inRegion.inBuffer s.cfg.bufBytes && s.outRegion.inBuffer s.cfg.bufBytes &&
    (!s.outRegion.overlaps s.inRegion || decide (s.outPtr = s.inPtr))

/-- The bytes of a region. -/
def State.readRegion (s : State) (r : Region) : List Byte := s.memRead r.ptr r.len

/-- K (R144): the 16 key bytes. -/
def State.keyBytes (s : State) : List Byte := bytes8 s.key0 ++ bytes8 s.key1

/-- N (R144): the 16 nonce bytes. -/
def State.nonceBytes (s : State) : List Byte := bytes8 s.nonce0 ++ bytes8 s.nonce1

/-- The checks of a face command and their order (60_exceptions.md R242): the parameter checks, then the
regions, then the body. -/
def State.checked (s : State) (paramOk useAux : Bool) (body : State → Result) : Result :=
  if paramOk then (if s.regionsOk useAux then body s else s.fail .range) else s.fail .invalidParam

/-- The end of a face command that succeeds: S is zeroed, the output is stored with one MemWrite at OUT_PTR,
and the command completes with ERR = OK (41_sponge.md R147, R148, R149). -/
def State.finishFace (s : State) (auth : Bool) (y : List Byte) : State :=
  ((s.zeroSponge).memWrite s.outPtr.toNat y).complete .ok auth

end Sys2Proof.Machine
end

