-- ==== Sys2Proof/Machine/Permutation.lean ====
section
/-! DEFINITION. The permutation core and the PERM command (spec/40_permutation.md R121 to R128). -/

namespace Sys2Proof.Machine

/-- c_r = 0xF0 - r*0x10 + r (R121), for r in 0..11. -/
def roundConstant (r : Nat) : Byte := BitVec.ofNat 8 (0xF0 - r * 0x10 + r)

/-- Constant-addition layer (R122). -/
def layerC (r : Nat) (s : Sponge) : Sponge := { s with s2 := s.s2 ^^^ (roundConstant r).zeroExtend 64 }

/-- Substitution layer (R123), in the order of its lines; `t0` to `t4` are the temporaries T. -/
def layerS (s : Sponge) : Sponge :=
  let a0 := s.s0 ^^^ s.s4
  let a1 := s.s1
  let a3 := s.s3
  let a4 := s.s4 ^^^ s.s3
  let a2 := s.s2 ^^^ s.s1
  let t0 := ~~~a0 &&& a1
  let t1 := ~~~a1 &&& a2
  let t2 := ~~~a2 &&& a3
  let t3 := ~~~a3 &&& a4
  let t4 := ~~~a4 &&& a0
  let b0 := a0 ^^^ t1
  let b1 := a1 ^^^ t2
  let b2 := a2 ^^^ t3
  let b3 := a3 ^^^ t4
  let b4 := a4 ^^^ t0
  { s0 := b0 ^^^ b4, s1 := b1 ^^^ b0, s2 := ~~~b2, s3 := b3 ^^^ b2, s4 := b4 }

/-- A word XORed with two right-rotations of itself (R125). -/
def diffuse (x : Word) (m n : Nat) : Word := x ^^^ rotr64 x m ^^^ rotr64 x n

/-- Linear diffusion layer (R125). -/
def layerL (s : Sponge) : Sponge where
  s0 := diffuse s.s0 19 28
  s1 := diffuse s.s1 61 39
  s2 := diffuse s.s2 1 6
  s3 := diffuse s.s3 10 17
  s4 := diffuse s.s4 7 41

/-- One round (R126). -/
def permRound (r : Nat) (s : Sponge) : Sponge := layerL (layerS (layerC r s))

/-- Perm(n) (R127), for n <= 12: rounds 12 - n to 11 in ascending order. -/
def permute (n : Nat) (s : Sponge) : Sponge :=
  match n with
  | 0 => s
  | k + 1 => permute k (permRound (11 - k) s)

/-- PERM n (R128). -/
def execPerm (n : Nat) (s : State) : Result :=
  if n > 12 then s.fail .invalidParam
  else .next ((s.withSponge (permute n s.sponge)).complete .ok false)

end Sys2Proof.Machine
end

