-- ==== Sys2Proof/Machine/Absorb.lean ====
section
/-! DEFINITION. What every face shares: padding, the IV word, block absorption, and CLEAR (spec/41_sponge.md R141,
R145, R150, R151). -/

namespace Sys2Proof.Machine

/-- Pad(X, r) (R141). -/
def pad (x : List Byte) (r : Nat) : List Byte := x ++ [0x01] ++ zeroBytes (r - x.length % r - 1)

/-- The blocks of Pad(X, r). -/
def padBlocks (x : List Byte) (r : Nat) : List (List Byte) := blocks r ((pad x r).length / r) (pad x r)

/-- IVW(code, a, b, taglen, rate) (R145). -/
def ivWord (code : Byte) (a b : Nat) (taglen : BitVec 16) (rate : Byte) : Word :=
  le64 [code, 0x00, BitVec.ofNat 8 ((b <<< 4) ||| a), taglen.extractLsb' 0 8, taglen.extractLsb' 8 8, rate, 0x00, 0x00]

/-- The words of a list XORed into S[0], S[1], ...; a state word with no word of the list stays. -/
def Sponge.xorWords (s : Sponge) (ws : List Word) : Sponge where
  s0 := s.s0 ^^^ ws.getD 0 0
  s1 := s.s1 ^^^ ws.getD 1 0
  s2 := s.s2 ^^^ ws.getD 2 0
  s3 := s.s3 ^^^ ws.getD 3 0
  s4 := s.s4 ^^^ ws.getD 4 0

/-- XorBlock(X, m) (R150), m the number of words of X. -/
def xorBlock (x : List Byte) (s : Sponge) : Sponge := s.xorWords (blockWords x)

/-- XorBlock of each block followed by Perm(n), after every block, the last included (42_aead.md R172,
43_hash.md R201, R202). -/
def absorbAll (n : Nat) (bs : List (List Byte)) (s : Sponge) : Sponge :=
  match bs with
  | [] => s
  | b :: bs => absorbAll n bs (permute n (xorBlock b s))

/-- CLEAR (R151). -/
def execClear (s : State) : Result :=
  .next (State.complete { s with sponge := Sponge.zero, key0 := 0, key1 := 0, nonce0 := 0, nonce1 := 0 } .ok false)

end Sys2Proof.Machine
end

