-- ==== Sys2Proof/Machine/Aead.lean ====
section
/-! DEFINITION. The AEAD face: AEAD.ENC and AEAD.DEC (spec/42_aead.md R170 to R176). -/

namespace Sys2Proof.Machine

/-- IV_AEAD (R170). -/
def ivAead : Word := ivWord 1 12 8 128 16

/-- Initialize (R171). -/
def aeadInit (k0 k1 n0 n1 : Word) : Sponge :=
  let s := permute 12 (loadState (bytes8 ivAead ++ (bytes8 k0 ++ bytes8 k1) ++ (bytes8 n0 ++ bytes8 n1)))
  { s with s3 := s.s3 ^^^ k0, s4 := s.s4 ^^^ k1 }

/-- Absorb associated data (R172). -/
def aeadAbsorbAD (ad : List Byte) (s : Sponge) : Sponge :=
  let s := if ad.length > 0 then absorbAll 8 (padBlocks ad 16) s else s
  { s with s4 := s.s4 ^^^ (1#64 <<< 63) }

/-- Finalize (R173): the 16-byte tag. -/
def aeadFinalize (k0 k1 : Word) (s : Sponge) : List Byte :=
  let s := permute 12 { s with s2 := s.s2 ^^^ k0, s3 := s.s3 ^^^ k1 }
  bytes8 (s.s3 ^^^ k0) ++ bytes8 (s.s4 ^^^ k1)

/-- The full plaintext blocks before the last (R174): the ciphertext they emit and the state after them. -/
def aeadEncBlocks (bs : List (List Byte)) (s : Sponge) : List Byte × Sponge :=
  match bs with
  | [] => ([], s)
  | b :: bs =>
    let x := xorBlock b s
    let rest := aeadEncBlocks bs (permute 8 x)
    (bytes8 x.s0 ++ bytes8 x.s1 ++ rest.1, rest.2)

/-- The ciphertext bytes of the plaintext and the state before Finalize (R174). -/
def aeadEncBody (pt : List Byte) (s : Sponge) : List Byte × Sponge :=
  let l := pt.length % 16
  let p := pad pt 16
  let t := p.length / 16
  let full := aeadEncBlocks (blocks 16 (t - 1) p) s
  let last := xorBlock (slice p (16 * (t - 1)) 16) full.2
  (full.1 ++ (bytes8 last.s0).take (min 8 l) ++ (bytes8 last.s1).take (max 0 (l - 8)), last)

/-- Ascon-AEAD128 encryption: ciphertext then tag (R174). -/
def aeadEncrypt (k0 k1 n0 n1 : Word) (ad pt : List Byte) : List Byte :=
  let body := aeadEncBody pt (aeadAbsorbAD ad (aeadInit k0 k1 n0 n1))
  body.1 ++ aeadFinalize k0 k1 body.2

/-- The full ciphertext blocks before the last (R175): the plaintext they give and the state after them. -/
def aeadDecBlocks (bs : List (List Byte)) (s : Sponge) : List Byte × Sponge :=
  match bs with
  | [] => ([], s)
  | b :: bs =>
    let c0 := le64 (slice b 0 8)
    let c1 := le64 (slice b 8 8)
    let rest := aeadDecBlocks bs (permute 8 { s with s0 := c0, s1 := c1 })
    (bytes8 (s.s0 ^^^ c0) ++ bytes8 (s.s1 ^^^ c1) ++ rest.1, rest.2)

/-- The last block of a decryption (R175): S[0] and S[1] rebuilt as `(old & mask) ^ cipher ^ paddingBit`, with
`l` ciphertext bytes in the block `c0 c1`. -/
def aeadDecLast (l : Nat) (c0 c1 : Word) (s : Sponge) : Sponge :=
  let mk := zeroBytes l ++ List.replicate (16 - l) 0xFF
  let pd := zeroBytes l ++ [0x01] ++ zeroBytes (15 - l)
  { s with
    s0 := (s.s0 &&& le64 (slice mk 0 8)) ^^^ c0 ^^^ le64 (slice pd 0 8)
    s1 := (s.s1 &&& le64 (slice mk 8 8)) ^^^ c1 ^^^ le64 (slice pd 8 8) }

/-- The plaintext bytes of the ciphertext and the state before Finalize (R175). -/
def aeadDecBody (ct : List Byte) (s : Sponge) : List Byte × Sponge :=
  let l := ct.length % 16
  let cz := ct ++ zeroBytes (16 - l)
  let t := cz.length / 16
  let full := aeadDecBlocks (blocks 16 (t - 1) cz) s
  let c0 := le64 (slice cz (16 * (t - 1)) 8)
  let c1 := le64 (slice cz (16 * (t - 1) + 8) 8)
  (full.1 ++ (bytes8 (full.2.s0 ^^^ c0) ++ bytes8 (full.2.s1 ^^^ c1)).take l, aeadDecLast l c0 c1 full.2)

/-- Ascon-AEAD128 decryption of a ciphertext: the plaintext and the computed tag (R175). -/
def aeadDecrypt (k0 k1 n0 n1 : Word) (ad ct : List Byte) : List Byte × List Byte :=
  let body := aeadDecBody ct (aeadAbsorbAD ad (aeadInit k0 k1 n0 n1))
  (body.1, aeadFinalize k0 k1 body.2)

/-- AEAD.ENC (R174). -/
def execAeadEnc (s : State) : Result :=
  s.checked (decide (s.outLen.toNat = s.inLen.toNat + 16)) true fun s =>
    .next (s.finishFace false
      (aeadEncrypt s.key0 s.key1 s.nonce0 s.nonce1 (s.readRegion s.auxRegion) (s.readRegion s.inRegion)))

/-- AEAD.DEC (R175): on a tag that differs, S is zeroed, no byte is written and ERR = AUTH_FAIL (R176,
60_exceptions.md R241). -/
def execAeadDec (s : State) : Result :=
  s.checked (decide (16 ≤ s.inLen.toNat) && decide (s.outLen.toNat = s.inLen.toNat - 16)) true fun s =>
    let x := s.readRegion s.inRegion
    let ct := x.take (s.inLen.toNat - 16)
    let tagIn := x.drop (s.inLen.toNat - 16)
    let d := aeadDecrypt s.key0 s.key1 s.nonce0 s.nonce1 (s.readRegion s.auxRegion) ct
    if d.2 = tagIn then .next (s.finishFace true d.1) else .next (s.zeroSponge.complete .authFail false)

end Sys2Proof.Machine
end

