-- ==== Sys2Proof/Machine/Hash.lean ====
section
/-! DEFINITION. The Hash/XOF face: HASH256, XOF128 and CXOF128 (spec/43_hash.md R200 to R206). -/

namespace Sys2Proof.Machine

/-- The IV word of Ascon-Hash256 (41_sponge.md R145). -/
def ivHash256 : Word := ivWord 2 12 12 256 8

/-- The IV word of Ascon-XOF128 (R145). -/
def ivXof128 : Word := ivWord 3 12 12 0 8

/-- The IV word of Ascon-CXOF128 (R145). -/
def ivCxof128 : Word := ivWord 4 12 12 0 8

/-- Initialize (R200). -/
def hashInit (iv : Word) : Sponge := permute 12 (loadState (bytes8 iv ++ zeroBytes 32))

/-- Customization absorption (R201): the bit length as an 8-byte word, then Z, also for an empty Z. -/
def customAbsorb (z : List Byte) (s : Sponge) : Sponge :=
  absorbAll 12 (padBlocks (bytes8 (BitVec.ofNat 64 (8 * z.length)) ++ z) 8) s

/-- Message absorption (R202). -/
def msgAbsorb (m : List Byte) (s : Sponge) : Sponge := absorbAll 12 (padBlocks m 8) s

/-- The words squeezed in `k` rounds of the loop of R203. -/
def squeezeWords (k : Nat) (s : Sponge) : List Byte :=
  match k with
  | 0 => []
  | k + 1 => bytes8 s.s0 ++ squeezeWords k (permute 12 s)

/-- Squeeze(n) (R203): the loop runs while fewer than n bytes are there. -/
def squeeze (n : Nat) (s : Sponge) : List Byte := (squeezeWords ((n + 7) / 8) s).take n

/-- The output of Ascon-Hash256 and, for every length, of Ascon-XOF128: initialise with the IV, absorb, squeeze
(R204, R205). -/
def hashBytes (iv : Word) (m : List Byte) (n : Nat) : List Byte := squeeze n (msgAbsorb m (hashInit iv))

/-- The output of Ascon-CXOF128 (R206). -/
def cxofBytes (z m : List Byte) (n : Nat) : List Byte :=
  squeeze n (msgAbsorb m (customAbsorb z (hashInit ivCxof128)))

/-- HASH256 (R204). -/
def execHash256 (s : State) : Result :=
  s.checked (decide (s.outLen.toNat = 32)) false fun s =>
    .next (s.finishFace false (hashBytes ivHash256 (s.readRegion s.inRegion) 32))

/-- XOF128 (R205). -/
def execXof128 (s : State) : Result :=
  s.checked true false fun s =>
    .next (s.finishFace false (hashBytes ivXof128 (s.readRegion s.inRegion) s.outLen.toNat))

/-- CXOF128 (R206). -/
def execCxof128 (s : State) : Result :=
  s.checked (decide (s.auxLen.toNat ≤ 256)) true fun s =>
    .next (s.finishFace false (cxofBytes (s.readRegion s.auxRegion) (s.readRegion s.inRegion) s.outLen.toNat))

end Sys2Proof.Machine
end

