-- ==== Sys2Proof/Machine/Mac.lean ====
section
/-! DEFINITION. The MAC/PRF face: MAC, PRF and PRFSHORT (spec/44_mac.md R220 to R225). -/

namespace Sys2Proof.Machine

/-- Initialize (R220): `tagspec` is 128 for Ascon-Mac and 0 for Ascon-Prf. -/
def macPrfInit (tagspec : Word) (k0 k1 : Word) : Sponge :=
  permute 12 (loadState
    ([128, 128, 140, 0] ++ (bytes8 tagspec).take 4 ++ (bytes8 k0 ++ bytes8 k1) ++ zeroBytes 16))

/-- The blocks of the message, a permutation between blocks only (R221). -/
def macBlocks (bs : List (List Byte)) (s : Sponge) : Sponge :=
  match bs with
  | [] => s
  | [b] => xorBlock b s
  | b :: c :: bs => macBlocks (c :: bs) (permute 12 (xorBlock b s))

/-- Absorb (R221): the blocks, then the end marker. -/
def macPrfAbsorb (m : List Byte) (s : Sponge) : Sponge :=
  let s := macBlocks (padBlocks m 32) s
  { s with s4 := s.s4 ^^^ 1 }

/-- The words squeezed in `k` rounds of the loop of R222: S[0], then S[1], then Perm(12). -/
def macSqueezeWords (k : Nat) (s : Sponge) : List Byte :=
  match k with
  | 0 => []
  | k + 1 => bytes8 s.s0 ++ bytes8 s.s1 ++ macSqueezeWords k (permute 12 s)

/-- Squeeze(n) (R222): one permutation after the end marker, then the loop while fewer than n bytes are there. -/
def macPrfSqueeze (n : Nat) (s : Sponge) : List Byte := (macSqueezeWords ((n + 15) / 16) (permute 12 s)).take n

/-- The output of Ascon-Mac (tagspec 128) and Ascon-Prf (tagspec 0) (R223, R224). -/
def macPrfBytes (tagspec k0 k1 : Word) (m : List Byte) (n : Nat) : List Byte :=
  macPrfSqueeze n (macPrfAbsorb m (macPrfInit tagspec k0 k1))

/-- The output of Ascon-PrfShort (R225): one permutation, no block loop, the message filled up with zeros. -/
def prfShortBytes (k0 k1 : Word) (m : List Byte) (n : Nat) : List Byte :=
  let s := permute 12 (loadState
    ([128, BitVec.ofNat 8 (8 * m.length), 76, BitVec.ofNat 8 (8 * n), 0, 0, 0, 0] ++ (bytes8 k0 ++ bytes8 k1) ++ m ++
      zeroBytes (16 - m.length)))
  (bytes8 (s.s3 ^^^ k0) ++ bytes8 (s.s4 ^^^ k1)).take n

/-- MAC (R223). -/
def execMac (s : State) : Result :=
  s.checked (decide (s.outLen.toNat ≤ 16)) false fun s =>
    .next (s.finishFace false (macPrfBytes 128 s.key0 s.key1 (s.readRegion s.inRegion) s.outLen.toNat))

/-- PRF (R224). -/
def execPrf (s : State) : Result :=
  s.checked true false fun s =>
    .next (s.finishFace false (macPrfBytes 0 s.key0 s.key1 (s.readRegion s.inRegion) s.outLen.toNat))

/-- PRFSHORT (R225). -/
def execPrfshort (s : State) : Result :=
  s.checked (decide (s.inLen.toNat ≤ 16) && decide (s.outLen.toNat ≤ 16)) false fun s =>
    .next (s.finishFace false (prfShortBytes s.key0 s.key1 (s.readRegion s.inRegion) s.outLen.toNat))

end Sys2Proof.Machine
end

