-- ==== Sys2Proof/Machine/Dispatch.lean ====
section
/-! DEFINITION. The execution of one decoded command (spec/41_sponge.md R147): one arm per command, one meaning
per arm. -/

namespace Sys2Proof.Machine

def exec (i : Instr) (s : State) : Host.Outcome State Fault Refusal :=
  match i with
  | .perm n => Sys2Proof.Machine.execPerm n s
  | .aeadEnc => Sys2Proof.Machine.execAeadEnc s
  | .aeadDec => Sys2Proof.Machine.execAeadDec s
  | .hash256 => Sys2Proof.Machine.execHash256 s
  | .xof128 => Sys2Proof.Machine.execXof128 s
  | .cxof128 => Sys2Proof.Machine.execCxof128 s
  | .mac => Sys2Proof.Machine.execMac s
  | .prf => Sys2Proof.Machine.execPrf s
  | .prfshort => Sys2Proof.Machine.execPrfshort s
  | .clear => Sys2Proof.Machine.execClear s

end Sys2Proof.Machine
end

