-- ==== Sys2Proof/Machine/HostPort.lean ====
section
/-! DEFINITION. The host port: the register map, the address map, HostRead and HostWrite (spec/10_state.md R20 to
R27, spec/20_memory.md R60 to R66, spec/41_sponge.md R146, spec/60_exceptions.md R243, R244). -/

namespace Sys2Proof.Machine

/-- The registers of the register map (10_state.md section 1). -/
inductive Reg where
  | ctrl | status | cmd
  | s0 | s1 | s2 | s3 | s4
  | key0 | key1 | nonce0 | nonce1
  | auxPtr | auxLen | inPtr | inLen | outPtr | outLen
  deriving DecidableEq, Repr

/-- The host offset of a register (10_state.md section 1). -/
def Reg.offset (r : Reg) : Nat :=
  match r with
  | .ctrl => 0x00
  | .status => 0x08
  | .cmd => 0x10
  | .s0 => 0x20
  | .s1 => 0x28
  | .s2 => 0x30
  | .s3 => 0x38
  | .s4 => 0x40
  | .key0 => 0x50
  | .key1 => 0x58
  | .nonce0 => 0x60
  | .nonce1 => 0x68
  | .auxPtr => 0x70
  | .auxLen => 0x78
  | .inPtr => 0x80
  | .inLen => 0x88
  | .outPtr => 0x90
  | .outLen => 0x98

/-- The register at an offset; none at the reserved offsets and outside the window (20_memory.md R62). -/
def regAt (off : Nat) : Option Reg :=
  match off with
  | 0x00 => some .ctrl
  | 0x08 => some .status
  | 0x10 => some .cmd
  | 0x20 => some .s0
  | 0x28 => some .s1
  | 0x30 => some .s2
  | 0x38 => some .s3
  | 0x40 => some .s4
  | 0x50 => some .key0
  | 0x58 => some .key1
  | 0x60 => some .nonce0
  | 0x68 => some .nonce1
  | 0x70 => some .auxPtr
  | 0x78 => some .auxLen
  | 0x80 => some .inPtr
  | 0x88 => some .inLen
  | 0x90 => some .outPtr
  | 0x98 => some .outLen
  | _ => none

/-- BUF_BASE (00_scope.md R5). -/
def bufBase : Nat := 0x00010000

/-- What an offset of the window names (20_memory.md R61, R62). -/
inductive Target where
  | reg (r : Reg)
  /-- The eight buffer bytes from `k` on, `k` a multiple of 8. -/
  | buf (k : Nat)
  /-- Misaligned, reserved or outside both windows. -/
  | nothing
  deriving DecidableEq, Repr

/-- The address map (R61, R62). -/
def targetOf (bufBytes : Nat) (off : Offset) : Target :=
  if off.toNat % 8 ≠ 0 then .nothing
  else if bufBase ≤ off.toNat ∧ off.toNat < bufBase + bufBytes then .buf (off.toNat - bufBase)
  else
    match regAt off.toNat with
    | some r => .reg r
    | none => .nothing

/-- Data a read gives unless BUSY = 1 hides it (10_state.md R20, 20_memory.md R65). -/
def State.hidden (s : State) (w : Word) : Word := if s.busy then 0 else w

/-- What a host read of a register returns (10_state.md R20 to R27). -/
def State.readReg (s : State) (r : Reg) : Word :=
  match r with
  | .ctrl => s.ctrlWord
  | .status => s.statusWord
  | .cmd => s.cmdReg
  | .s0 => s.hidden s.sponge.s0
  | .s1 => s.hidden s.sponge.s1
  | .s2 => s.hidden s.sponge.s2
  | .s3 => s.hidden s.sponge.s3
  | .s4 => s.hidden s.sponge.s4
  | .key0 => 0
  | .key1 => 0
  | .nonce0 => s.nonce0
  | .nonce1 => s.nonce1
  | .auxPtr => s.auxPtr.zeroExtend 64
  | .auxLen => s.auxLen.zeroExtend 64
  | .inPtr => s.inPtr.zeroExtend 64
  | .inLen => s.inLen.zeroExtend 64
  | .outPtr => s.outPtr.zeroExtend 64
  | .outLen => s.outLen.zeroExtend 64

/-- A write of STATUS: write-1-to-clear of DONE and WERR, all other bits ignored (10_state.md R26). -/
def State.writeStatus (s : State) (d : Word) : State :=
  { s with done := s.done && !d.getLsbD 1, werr := s.werr && !d.getLsbD 2 }

/-- A write that takes effect only while BUSY = 0; while BUSY = 1 it is dropped and sets WERR
(60_exceptions.md R244). -/
def State.whenIdle (s : State) (t : State) : State := if s.busy then s.setWerr else t

/-- VALUE of a region register: bits 31:0 of the data written (10_state.md R24). -/
def regionValue (d : Word) : BitVec 32 := d.extractLsb' 0 32

/-- A host write of a register (10_state.md R20 to R27; a write of CMD is a command issue, 41_sponge.md R146). -/
def State.writeReg (s : State) (r : Reg) (d : Word) : State :=
  match r with
  | .ctrl => { s with ie := d.getLsbD 0 }
  | .status => s.writeStatus d
  | .cmd => s.whenIdle (s.issue d)
  | .s0 => s.whenIdle (s.withSponge { s.sponge with s0 := d })
  | .s1 => s.whenIdle (s.withSponge { s.sponge with s1 := d })
  | .s2 => s.whenIdle (s.withSponge { s.sponge with s2 := d })
  | .s3 => s.whenIdle (s.withSponge { s.sponge with s3 := d })
  | .s4 => s.whenIdle (s.withSponge { s.sponge with s4 := d })
  | .key0 => s.whenIdle { s with key0 := d }
  | .key1 => s.whenIdle { s with key1 := d }
  | .nonce0 => s.whenIdle { s with nonce0 := d }
  | .nonce1 => s.whenIdle { s with nonce1 := d }
  | .auxPtr => s.whenIdle { s with auxPtr := regionValue d }
  | .auxLen => s.whenIdle { s with auxLen := regionValue d }
  | .inPtr => s.whenIdle { s with inPtr := regionValue d }
  | .inLen => s.whenIdle { s with inLen := regionValue d }
  | .outPtr => s.whenIdle { s with outPtr := regionValue d }
  | .outLen => s.whenIdle { s with outLen := regionValue d }

/-- The buffer word at `k`: its lowest byte is the least significant (20_memory.md R65). -/
def State.readBufWord (s : State) (k : Nat) : Word := s.hidden (le64 (s.memRead k 8))

/-- A write of the buffer word at `k` (20_memory.md R65). -/
def State.writeBufWord (s : State) (k : Nat) (d : Word) : State := s.whenIdle (s.memWrite k (bytes8 d))

/-- HostRead (20_memory.md R60): the data and the response. It has no effect on the core (R63). -/
def State.hostRead (s : State) (off : Offset) : Word × Resp :=
  match targetOf s.cfg.bufBytes off with
  | .reg r => (s.readReg r, .okay)
  | .buf k => (s.readBufWord k, .okay)
  | .nothing => (0, .error)

/-- HostWrite (20_memory.md R60): the state after it and the response. -/
def State.hostWrite (s : State) (off : Offset) (d : Word) : State × Resp :=
  match targetOf s.cfg.bufBytes off with
  | .reg r => (s.writeReg r d, .okay)
  | .buf k => (s.writeBufWord k d, .okay)
  | .nothing => (s, .error)

end Sys2Proof.Machine
end

