-- ==== Sys2Proof/Machine/Turns.lean ====
section
/-! DEFINITION. What each agent does in its turn: the execution step (spec/41_sponge.md R147), a host transaction
(spec/20_memory.md R60, spec/30_encoding.md R107), a reset (spec/70_reset_and_hazards.md R270, R271), and which
agent a step belongs to (spec/20_memory.md R74, log entry 4). -/

namespace Sys2Proof.Machine

/-- The execution step of the command in flight (41_sponge.md R147): decode PENDING and run it; a word that does
not decode completes with UNSUPPORTED. With no command in flight the core is idle (60_exceptions.md R254). -/
def coreTurn (s : State) : Result :=
  match s.pending with
  | none => .next s
  | some w =>
    match decode w with
    | .command i => exec i s
    | .unsupported _ => s.fail .unsupported

/-- The host's next statement, if it has one. -/
def State.hostStmt (s : State) : Option HostStmt := s.host.program[s.host.pos]?

/-- The host notes a response and goes on at a position. -/
def State.hostGoes (s : State) (r : Reply) (pos : Nat) : State :=
  { s with host := { s.host with pos := pos, log := s.host.log ++ [r] } }

/-- One host statement: exactly one transaction (30_encoding.md R107). -/
def State.runStmt (s : State) (x : HostStmt) : State :=
  match x with
  | .wr off d => (s.hostWrite off d).1.hostGoes (.written (s.hostWrite off d).2) (s.host.pos + 1)
  | .rd off => s.hostGoes (.read (s.hostRead off).1 (s.hostRead off).2) (s.host.pos + 1)
  | .bne off mask value label =>
    s.hostGoes (.read (s.hostRead off).1 (s.hostRead off).2)
      (if (s.hostRead off).1 &&& mask ≠ value then label else s.host.pos + 1)

/-- The host's turn: its next statement, or nothing when it has made its last transaction. -/
def hostTurn (s : State) : State :=
  match s.hostStmt with
  | some x => s.runStmt x
  | none => s

/-- Reset (70_reset_and_hazards.md R270, R271): every register takes its reset value, the command in flight is
abandoned, and every buffer byte is a fresh free value. The parameter, the host and the schedule are not the
core's and stay (log entry 7). -/
def resetTurn (s : State) : State :=
  { State.reset with cfg := s.cfg, resets := s.resets + 1, schedule := s.schedule, host := s.host }

/-- Whose turn the next step is: the schedule's first, and when the schedule is empty the core if a command is
in flight, else the host if it has a statement (log entry 4). -/
def State.nextTurn (s : State) : Option Turn :=
  match s.schedule with
  | t :: _ => some t
  | [] => if s.busy then some .core else if s.hostStmt.isSome then some .host else none

/-- The schedule without its first turn. -/
def State.popTurn (s : State) : State := { s with schedule := s.schedule.tail }

/-- The next turn is the core's, whatever follows. -/
def State.coreNext (s : State) : State := { s with schedule := .core :: s.schedule }

end Sys2Proof.Machine
end

