-- ==== Sys2Proof/Machine/Step.lean ====
section
/-! DEFINITION. One step of the machine: one turn of one agent (spec/20_memory.md R74, spec/60_exceptions.md R248). -/

namespace Sys2Proof.Machine

/-- One step: at most one event, the core's execution step, a host transaction or a reset. -/
def step (s : State) : Host.Outcome State Fault Refusal :=
  match s.nextTurn with
  | none => .next s
  | some .core => coreTurn s.popTurn
  | some .host => .next (hostTurn s.popTurn)
  | some .reset => .next (resetTurn s.popTurn)

/-- The command word of the table's bits accepted as the command in flight, and the core to move next. The core
fetches nothing: a command is a word the host writes to CMD (10_state.md R28), so this stands for that write
(41_sponge.md R146; log entry 8). -/
def State.withFetchWord (s : State) (nbits w : Nat) : State := (s.issue (tableWord nbits w)).coreNext

end Sys2Proof.Machine
end

