-- ==== Sys2Proof/Machine/HostAsm.lean ====
section
/-! DEFINITION. The host assembly of spec/30_encoding.md R107 and R108 as abstract syntax, and its expansion into
host statements. A label is a number that stands for its name; the model places it (log entry 14). -/

namespace Sys2Proof.Machine

/-- What a statement names: a register, or `BUF+k` (R107). -/
inductive AsmTarget where
  | reg (r : Reg)
  | buf (k : Nat)
  deriving DecidableEq, Repr

/-- The three regions that `REGION` names (R108). -/
inductive AsmRegion where
  | aux | inp | out
  deriving DecidableEq, Repr

/-- A line of a host program: the statements of R107 and the pseudo-instructions of R108. -/
inductive AsmLine where
  | label (l : Nat)
  | wr (t : AsmTarget) (imm : Word)
  | rd (t : AsmTarget)
  | bne (t : AsmTarget) (mask value : Word) (l : Nat)
  | cmd (i : Instr)
  | wait
  | key (k : List Byte)
  | nonce (n : List Byte)
  | region (x : AsmRegion) (ptr len : Word)
  | wrBytes (k : Nat) (b : List Byte)
  | rdBytes (k m : Nat)
  deriving DecidableEq, Repr

/-- The host offset of a target (R107). The rule gives `BUF+k` for a multiple of 8, k; for any other k, and for one
with BUF_BASE + k past 32 bits, the model takes the sum modulo 2^32: DESIGN CHOICE (log entry 16, unsafe). -/
def AsmTarget.offset (t : AsmTarget) : Offset :=
  match t with
  | .reg r => BitVec.ofNat 32 r.offset
  | .buf k => BitVec.ofNat 32 (bufBase + k)

/-- A write of a named register. -/
def wrReg (r : Reg) (d : Word) : HostStmt := .wr (AsmTarget.reg r).offset d

/-- The words of `WRBYTES BUF+k`, each one write (R108). -/
def wrWords (k : Nat) (ws : List Word) : List HostStmt :=
  match ws with
  | [] => []
  | w :: ws => .wr (AsmTarget.buf k).offset w :: wrWords (k + 8) ws

/-- `n` reads of buffer words from BUF+k on (R108). -/
def rdWords (k n : Nat) : List HostStmt :=
  match n with
  | 0 => []
  | n + 1 => .rd (AsmTarget.buf k).offset :: rdWords (k + 8) n

/-- The bytes followed by zero bytes up to a multiple of 8 (R108). -/
def fill8 (b : List Byte) : List Byte := b ++ zeroBytes ((8 - b.length % 8) % 8)

/-- The statements of one line, placed at position `pos`, with labels placed by `place` (R107, R108); none if
the line names a label that no line places. Where the rules leave a line open the model chooses, DESIGN CHOICE: of two
labels of one name the first is meant (log entry 15, unsafe), missing bytes of KEY and NONCE are zero and bytes after
the sixteenth are dropped (log entry 17, unsafe), and the count of `CMD PERM` is shifted into the word as it is, also
past 15 (log entry 18, unsafe). -/
def AsmLine.expand (place : List (Nat × Nat)) (pos : Nat) (x : AsmLine) : Option (List HostStmt) :=
  match x with
  | .label _ => some []
  | .wr t imm => some [.wr t.offset imm]
  | .rd t => some [.rd t.offset]
  | .bne t mask value l => (List.lookup l place).map fun p => [.bne t.offset mask value p]
  | .cmd i => some [wrReg .cmd (encode i)]
  | .wait => some [.bne (AsmTarget.reg .status).offset 0x1 0x0 pos]
  | .key k => some [wrReg .key0 (le64 (slice k 0 8)), wrReg .key1 (le64 (slice k 8 8))]
  | .nonce n => some [wrReg .nonce0 (le64 (slice n 0 8)), wrReg .nonce1 (le64 (slice n 8 8))]
  | .region .aux p l => some [wrReg .auxPtr p, wrReg .auxLen l]
  | .region .inp p l => some [wrReg .inPtr p, wrReg .inLen l]
  | .region .out p l => some [wrReg .outPtr p, wrReg .outLen l]
  | .wrBytes k b => some (wrWords k (blockWords (fill8 b)))
  | .rdBytes k m => some (rdWords k ((m + 7) / 8))

/-- How many statements a line expands into (R107, R108). -/
def AsmLine.size (x : AsmLine) : Nat :=
  match x with
  | .label _ => 0
  | .wr _ _ => 1
  | .rd _ => 1
  | .bne _ _ _ _ => 1
  | .cmd _ => 1
  | .wait => 1
  | .key _ => 2
  | .nonce _ => 2
  | .region _ _ _ => 2
  | .wrBytes _ b => (b.length + 7) / 8
  | .rdBytes _ m => (m + 7) / 8

/-- Where each label stands: the position of the next statement (R107), the lines in order, so that a search finds the
first of two labels of one name (log entry 15). -/
def placeLabels (pos : Nat) (p : List AsmLine) : List (Nat × Nat) :=
  match p with
  | [] => []
  | .label l :: p => (l, pos) :: placeLabels pos p
  | x :: p => placeLabels (pos + x.size) p

/-- The lines expanded in order. -/
def expandAll (place : List (Nat × Nat)) (pos : Nat) (p : List AsmLine) : Option (List HostStmt) :=
  match p with
  | [] => some []
  | x :: p =>
    match x.expand place pos, expandAll place (pos + x.size) p with
    | some a, some b => some (a ++ b)
    | _, _ => none

/-- The data word of a reply to a HostRead; a reply to a HostWrite has none (20_memory.md R60). -/
def Reply.word? (r : Reply) : Option Word :=
  match r with
  | .read w _ => some w
  | .written _ => none

/-- The first `m` bytes of the BYTES8 of the words read, in order (R108). -/
def readBytes (m : Nat) (l : List Reply) : List Byte := ((l.filterMap Reply.word?).flatMap bytes8).take m

/-- The result of `RDBYTES BUF+k, m` (R108), from the replies its reads received: those from the `start`-th on, where
`start` replies had been received before its first read. -/
def HostAgent.rdResult (h : HostAgent) (start m : Nat) : List Byte :=
  readBytes m ((h.log.drop start).take ((m + 7) / 8))

/-- The host statements of a program; none if it names a label it does not place. -/
def assemble (p : List AsmLine) : Option (List HostStmt) := expandAll (placeLabels 0 p) 0 p

end Sys2Proof.Machine
end

