-- ==== Sys2Proof/Safety.lean ====
section
/-! DEFINITION. The terms the claims use: what a command leaves unchanged, how it ends, the invariant of every
step, which operands a command reads, and the end and observation of a run (spec/60_exceptions.md R240 to R242,
spec/70_reset_and_hazards.md R274, R278, R279). -/

namespace Sys2Proof.Machine

/-- The operand registers no command but CLEAR writes: key and nonce (10_state.md R22, R23). -/
structure KeepsKeys (s t : State) : Prop where
  key0 : t.key0 = s.key0
  key1 : t.key1 = s.key1
  nonce0 : t.nonce0 = s.nonce0
  nonce1 : t.nonce1 = s.nonce1

/-- What no command writes: the region registers, CTRL, CMDREG and STATUS.WERR (10_state.md R24, R25, R27;
60_exceptions.md R244), the parameter, and what is not the core's. -/
structure KeepsRest (s t : State) : Prop where
  auxPtr : t.auxPtr = s.auxPtr
  auxLen : t.auxLen = s.auxLen
  inPtr : t.inPtr = s.inPtr
  inLen : t.inLen = s.inLen
  outPtr : t.outPtr = s.outPtr
  outLen : t.outLen = s.outLen
  ie : t.ie = s.ie
  werr : t.werr = s.werr
  cmdReg : t.cmdReg = s.cmdReg
  cfg : t.cfg = s.cfg
  resets : t.resets = s.resets
  schedule : t.schedule = s.schedule
  host : t.host = s.host

/-- STATUS after a completion (41_sponge.md R147): BUSY = 0, DONE = 1, ERR and AUTHOK as given. -/
structure Completed (t : State) (e : ErrCode) (auth : Bool) : Prop where
  idle : t.busy = false
  done : t.done = true
  err : t.err = e
  authok : t.authok = auth

/-- Every buffer byte reads as before. -/
def SameBytes (s t : State) : Prop := ∀ a, t.byteAt a = s.byteAt a

/-- Every buffer byte outside `a .. a + n - 1` reads as before. -/
def SameBytesOutside (s t : State) (a n : Nat) : Prop := ∀ b, (b < a ∨ a + n ≤ b) → t.byteAt b = s.byteAt b

/-- A check error (60_exceptions.md R241): nothing but STATUS changes; ERR is the code. -/
structure OnlyStatus (s t : State) (e : ErrCode) : Prop where
  sponge : t.sponge = s.sponge
  keys : KeepsKeys s t
  rest : KeepsRest s t
  bytes : SameBytes s t
  status : Completed t e false

/-- A face command that succeeds with output `y` (41_sponge.md R147 to R149): S is zero, the OUT region holds `y`,
which has exactly OUT_LEN bytes, every other byte and register is unchanged, ERR = OK. -/
structure FaceDone (s t : State) (auth : Bool) (y : List Byte) : Prop where
  sponge : t.sponge = Sponge.zero
  length : y.length = s.outLen.toNat
  output : t.memRead s.outPtr.toNat s.outLen.toNat = y
  outside : SameBytesOutside s t s.outPtr.toNat s.outLen.toNat
  keys : KeepsKeys s t
  rest : KeepsRest s t
  status : Completed t .ok auth

/-- The parameter checks of 60_exceptions.md R240, by command. -/
def paramsOk (i : Instr) (s : State) : Prop :=
  match i with
  | .perm n => n ≤ 12
  | .aeadEnc => s.outLen.toNat = s.inLen.toNat + 16
  | .aeadDec => 16 ≤ s.inLen.toNat ∧ s.outLen.toNat = s.inLen.toNat - 16
  | .hash256 => s.outLen.toNat = 32
  | .xof128 => True
  | .cxof128 => s.auxLen.toNat ≤ 256
  | .mac => s.outLen.toNat ≤ 16
  | .prf => True
  | .prfshort => s.inLen.toNat ≤ 16 ∧ s.outLen.toNat ≤ 16
  | .clear => True

/-- The command uses the AUX region (41_sponge.md R142). -/
def usesAux (i : Instr) : Bool :=
  match i with
  | .perm _ => false
  | .aeadEnc => true
  | .aeadDec => true
  | .hash256 => false
  | .xof128 => false
  | .cxof128 => true
  | .mac => false
  | .prf => false
  | .prfshort => false
  | .clear => false

/-- The command uses the IN and OUT regions (41_sponge.md R142): every face command. -/
def usesRegions (i : Instr) : Bool :=
  match i with
  | .perm _ => false
  | .aeadEnc => true
  | .aeadDec => true
  | .hash256 => true
  | .xof128 => true
  | .cxof128 => true
  | .mac => true
  | .prf => true
  | .prfshort => true
  | .clear => false

/-- The command reads the key (10_state.md R22). -/
def usesKey (i : Instr) : Bool :=
  match i with
  | .perm _ => false
  | .aeadEnc => true
  | .aeadDec => true
  | .hash256 => false
  | .xof128 => false
  | .cxof128 => false
  | .mac => true
  | .prf => true
  | .prfshort => true
  | .clear => false

/-- The command reads the nonce (10_state.md R23). -/
def usesNonce (i : Instr) : Bool :=
  match i with
  | .perm _ => false
  | .aeadEnc => true
  | .aeadDec => true
  | .hash256 => false
  | .xof128 => false
  | .cxof128 => false
  | .mac => false
  | .prf => false
  | .prfshort => false
  | .clear => false

/-- Two regions share a byte (41_sponge.md R143), as arithmetic. -/
abbrev Overlap (p1 l1 p2 l2 : Nat) : Prop := 0 < l1 ∧ 0 < l2 ∧ p1 < p2 + l2 ∧ p2 < p1 + l1

/-- The region checks of a command that uses IN and OUT, and AUX where `aux` says so (41_sponge.md R142, R143). -/
abbrev RegionsFit (aux : Bool) (s : State) : Prop :=
  (aux = true → s.auxPtr.toNat + s.auxLen.toNat ≤ s.cfg.bufBytes ∧
    ¬Overlap s.outPtr.toNat s.outLen.toNat s.auxPtr.toNat s.auxLen.toNat) ∧
  s.inPtr.toNat + s.inLen.toNat ≤ s.cfg.bufBytes ∧
  s.outPtr.toNat + s.outLen.toNat ≤ s.cfg.bufBytes ∧
  (Overlap s.outPtr.toNat s.outLen.toNat s.inPtr.toNat s.inLen.toNat → s.outPtr = s.inPtr)

/-- The bytes of the regions as the command reads them (41_sponge.md R148). -/
def auxBytes (s : State) : List Byte := s.memRead s.auxPtr.toNat s.auxLen.toNat
def inBytes (s : State) : List Byte := s.memRead s.inPtr.toNat s.inLen.toNat

/-- Two states agree on the operands a face command reads: the parameter, its region registers, the bytes of
its input regions, and the key and nonce where it reads them (42_aead.md R177, 43_hash.md R207, 44_mac.md R226). -/
structure SameOperands (i : Instr) (s t : State) : Prop where
  cfg : t.cfg = s.cfg
  inPtr : t.inPtr = s.inPtr
  inLen : t.inLen = s.inLen
  outPtr : t.outPtr = s.outPtr
  outLen : t.outLen = s.outLen
  auxPtr : usesAux i = true → t.auxPtr = s.auxPtr
  auxLen : usesAux i = true → t.auxLen = s.auxLen
  inputs : inBytes t = inBytes s
  aux : usesAux i = true → auxBytes t = auxBytes s
  key : usesKey i = true → t.key0 = s.key0 ∧ t.key1 = s.key1
  nonce : usesNonce i = true → t.nonce0 = s.nonce0 ∧ t.nonce1 = s.nonce1

/-- The invariant of every step. -/
structure Inv (s : State) : Prop where
  /-- The buffer's list is in canonical form. -/
  canonical : s.buf.wf
  /-- No byte is stored outside BUF (20_memory.md R64). -/
  inBuffer : s.buf.below s.cfg.bufBytes
  /-- BUF_BYTES is a size the spec admits (00_scope.md R5). -/
  size : s.cfg.valid
  /-- PENDING equals CMDREG while it is valid (10_state.md R30). -/
  pending : ∀ w, s.pending = some w → s.cmdReg = w
  /-- While BUSY = 1, DONE = 0, ERR = OK and AUTHOK = 0 (41_sponge.md R146). -/
  busy : s.busy = true → s.done = false ∧ s.err = .ok ∧ s.authok = false
  /-- AUTHOK = 1 only beside ERR = OK (42_aead.md R175). -/
  authok : s.authok = true → s.err = .ok

/-- The offsets that answer ERROR (20_memory.md R61, R62): misaligned, 0x18, 0x48, 0xA0 to BUF_BASE - 1, and from
BUF_BASE + BUF_BYTES on. -/
abbrev Unmapped (bufBytes off : Nat) : Prop :=
  off % 8 ≠ 0 ∨ off = 0x18 ∨ off = 0x48 ∨ (0xA0 ≤ off ∧ off < 0x10000) ∨ 0x10000 + bufBytes ≤ off

/-- The registers whose writes are dropped while BUSY = 1 (60_exceptions.md R244): all but CTRL and STATUS. -/
abbrev Reg.guarded (r : Reg) : Prop := r ≠ .ctrl ∧ r ≠ .status

/-- The host offset of a register as the port takes it. -/
def Reg.off (r : Reg) : Offset := BitVec.ofNat 32 r.offset

/-- The offsets whose writes are dropped while BUSY = 1 (60_exceptions.md R244): the guarded registers and the buffer
window. -/
def GuardedOffset (bufBytes : Nat) (off : Offset) : Prop :=
  (∃ r : Reg, r.guarded ∧ off = r.off) ∨ ∃ k, targetOf bufBytes off = .buf k

/-- A padding block of 4 words XORed into S[0] to S[3] (44_mac.md R221), the words written out. -/
def Sponge.xor4 (s : Sponge) (b : List Byte) : Sponge :=
  { s with s0 := s.s0 ^^^ le64 (slice b 0 8), s1 := s.s1 ^^^ le64 (slice b 8 8),
           s2 := s.s2 ^^^ le64 (slice b 16 8), s3 := s.s3 ^^^ le64 (slice b 24 8) }

/-- A block of 2 words XORed into S[0] and S[1] (42_aead.md R172, R174), the words written out. -/
def Sponge.xor2 (s : Sponge) (b : List Byte) : Sponge :=
  { s with s0 := s.s0 ^^^ le64 (slice b 0 8), s1 := s.s1 ^^^ le64 (slice b 8 8) }

/-- A block of 1 word XORed into S[0] (43_hash.md R201, R202). -/
def Sponge.xor1 (s : Sponge) (b : List Byte) : Sponge := { s with s0 := s.s0 ^^^ le64 b }

/-- The 5-bit S-box (40_permutation.md R124). -/
def sboxTable : List Nat :=
  [0x04, 0x0B, 0x1F, 0x14, 0x1A, 0x15, 0x09, 0x02, 0x1B, 0x05, 0x08, 0x12, 0x1D, 0x03, 0x06, 0x1C,
   0x1E, 0x13, 0x07, 0x0E, 0x00, 0x0D, 0x11, 0x18, 0x10, 0x0C, 0x01, 0x19, 0x16, 0x0A, 0x0F, 0x17]

/-- Bit column `j` of the state, S[0] the most significant (40_permutation.md R124). -/
def Sponge.column (s : Sponge) (j : Nat) : Nat :=
  16 * (s.s0.getLsbD j).toNat + 8 * (s.s1.getLsbD j).toNat + 4 * (s.s2.getLsbD j).toNat +
    2 * (s.s3.getLsbD j).toNat + (s.s4.getLsbD j).toNat

/-- A run is over (70_reset_and_hazards.md R278): the host has made its last transaction and no command is in
flight. -/
def State.ended (s : State) : Bool := s.hostStmt.isNone && !s.busy

/-- What a run that is over shows (R278): the registers, the buffer, and what the host received. -/
structure Observation where
  sponge : Sponge
  key : Word × Word
  nonce : Word × Word
  aux : BitVec 32 × BitVec 32
  inp : BitVec 32 × BitVec 32
  out : BitVec 32 × BitVec 32
  ctrl : Word
  status : Word
  cmdReg : Word
  buf : List Byte
  replies : List Reply
  deriving DecidableEq, Repr

/-- The observation of a state (R278). -/
def State.observe (s : State) : Observation where
  sponge := s.sponge
  key := (s.key0, s.key1)
  nonce := (s.nonce0, s.nonce1)
  aux := (s.auxPtr, s.auxLen)
  inp := (s.inPtr, s.inLen)
  out := (s.outPtr, s.outLen)
  ctrl := s.ctrlWord
  status := s.statusWord
  cmdReg := s.cmdReg
  buf := s.memRead 0 s.cfg.bufBytes
  replies := s.host.log

end Sys2Proof.Machine
end

