-- ==== Sys2Proof/Certificates/Slice0/Obligations.lean ====
section
/-! DEFINITION. The statements for the provers. Each docstring names the rules of spec/ it formalises. -/

open Sys2Proof Sys2Proof.Machine

/-! ## The command word -/

/-- Decoding the word of a well-formed command gives the command back (30_encoding.md R100 to R104). -/
def Obligations.DecodeOfEncode : Prop :=
  ∀ i : Instr, i.wf = true → decode (encode i) = .command i

/-- A word that decodes is the word of the command it decodes to, which is well formed (R103, R104). -/
def Obligations.EncodeOfDecode : Prop :=
  ∀ (w : Word) (i : Instr), decode w = .command i → i.wf = true ∧ encode i = w

/-- The opcode map of R103, by the value of the full word: exactly these words decode, each to its command. -/
def Obligations.DecodesExactlyTheOpcodeMap : Prop :=
  ∀ (w : Word) (i : Instr), decode w = .command i ↔
    (∃ n, n < 16 ∧ w.toNat = 0x01 + 16 * n ∧ i = .perm n) ∨
    (w.toNat = 0x02 ∧ i = .aeadEnc) ∨ (w.toNat = 0x03 ∧ i = .aeadDec) ∨
    (w.toNat = 0x04 ∧ i = .hash256) ∨ (w.toNat = 0x05 ∧ i = .xof128) ∨
    (w.toNat = 0x06 ∧ i = .cxof128) ∨ (w.toNat = 0x07 ∧ i = .mac) ∨
    (w.toNat = 0x08 ∧ i = .prf) ∨ (w.toNat = 0x09 ∧ i = .prfshort) ∨ (w.toNat = 0x0F ∧ i = .clear)

/-- The illegal words of R105: each completes with ERR = UNSUPPORTED and changes nothing but STATUS (R104, R241). -/
def Obligations.IllegalWordsCompleteUnsupported : Prop :=
  ∀ (s : State) (w : Word), s.pending = some w →
    (w.toNat % 16 = 0x0 ∨ (0xA ≤ w.toNat % 16 ∧ w.toNat % 16 ≤ 0xE) ∨ 0x100 ≤ w.toNat ∨
      (w.toNat % 16 ≠ 0x1 ∧ w.toNat / 16 % 16 ≠ 0)) →
    ∃ t, coreTurn s = .next t ∧ OnlyStatus s t .unsupported

/-- Words written out from the encodings of R103 decode to their commands. -/
def Obligations.SampleWordsDecode : Prop :=
  decode 0xC1 = .command (.perm 12) ∧ decode 0x02 = .command .aeadEnc ∧ decode 0x04 = .command .hash256 ∧
    decode 0x09 = .command .prfshort ∧ decode 0x0F = .command .clear

/-! ## The step -/

/-- When the core moves next and PENDING decodes to a command, the step is that command's execution, on the state
whose schedule has given up that turn (41_sponge.md R147). Whose turn it is, is the model's own field `schedule`
(log entry 4). -/
def Obligations.StepRunsDecodedCommand : Prop :=
  ∀ (s : State) (w : Word) (i : Instr), s.nextTurn = some .core → s.pending = some w → decode w = .command i →
    step s = exec i s.popTurn

/-- The command placed by withFetchWord is the one the very next step runs, on the state its acceptance leaves. That
a word is placed from outside is the model's choice (log entry 8). -/
def Obligations.PlacedWordRunsNext : Prop :=
  ∀ (s : State) (nbits w : Nat) (i : Instr), decodeTableWord nbits w = some i →
    step (s.withFetchWord nbits w) = exec i (s.issue (tableWord nbits w))

/-- Every step keeps the invariant, from every state that meets it: the buffer's list stays canonical and inside
BUF, BUF_BYTES stays admissible, PENDING equals CMDREG, BUSY excludes DONE, errors and AUTHOK, and AUTHOK comes
with ERR = OK only (10_state.md R26, R30; 20_memory.md R64; 41_sponge.md R146, R147). -/
def Obligations.StepKeepsInvariant : Prop :=
  ∀ s t : State, Inv s → step s = .next t → Inv t

/-- The state after reset meets the invariant. -/
def Obligations.ResetMeetsInvariant : Prop := Inv State.reset

/-- No step changes BUF_BYTES (00_scope.md R5), which the model keeps in State (log entry 1). -/
def Obligations.StepKeepsBufferSize : Prop :=
  ∀ s t : State, step s = .next t → t.cfg = s.cfg

/-- Every step of every state answers a next state: there is no trap and no refusal (60_exceptions.md R245). -/
def Obligations.EveryStepAnswersNext : Prop :=
  ∀ s : State, ∃ t, step s = .next t

/-- A command in flight is executed at the first core turn of the schedule, or right after the schedule if it has
none, unless a reset comes before that: after the turns before it the same command is still in flight, the core moves
next, and that step completes it (41_sponge.md R147, 70_reset_and_hazards.md R277). That the schedule is a finite list
is the model's choice (log entry 4). -/
def Obligations.CommandInFlightIsExecuted : Prop :=
  ∀ (s : State) (w : Word), s.pending = some w → .reset ∉ s.schedule.takeWhile (fun x => decide (x ≠ .core)) →
    ∃ u t : State,
      Host.Core.run Sys2Proof.core (s.schedule.takeWhile (fun x => decide (x ≠ .core))).length s = .next u ∧
      u.pending = some w ∧ u.nextTurn = some .core ∧ step u = .next t ∧ t.busy = false ∧ t.done = true

/-- While a command stays in flight no step changes its operands: S, key, nonce, region registers, buffer
(70_reset_and_hazards.md R273, R274). The steps interleave by the model's own field `schedule` (log entry 4). -/
def Obligations.OperandsFixedWhileBusy : Prop :=
  ∀ s t : State, s.busy = true → step s = .next t → t.busy = true →
    t.sponge = s.sponge ∧ KeepsKeys s t ∧ t.auxPtr = s.auxPtr ∧ t.auxLen = s.auxLen ∧ t.inPtr = s.inPtr ∧
      t.inLen = s.inLen ∧ t.outPtr = s.outPtr ∧ t.outLen = s.outLen ∧ SameBytes s t ∧
      t.cmdReg = s.cmdReg ∧ t.pending = s.pending

/-- Reset, at any step: every register takes the value of R270, a command in flight is abandoned with no DONE and
no interrupt, and every buffer byte is a free value (70_reset_and_hazards.md R270, R271). The same registers hold in
the state the model starts from. The free value Config.freeByte and the turn that asserts reset are the model's form
of those rules (log entries 2, 4 and 7). -/
def Obligations.ResetSetsEveryRegister : Prop :=
  (∀ s : State, s.nextTurn = some .reset → ∃ t, step s = .next t ∧
    t.sponge.s0 = 0 ∧ t.sponge.s1 = 0 ∧ t.sponge.s2 = 0 ∧ t.sponge.s3 = 0 ∧ t.sponge.s4 = 0 ∧
    t.key0 = 0 ∧ t.key1 = 0 ∧ t.nonce0 = 0 ∧ t.nonce1 = 0 ∧
    t.auxPtr = 0 ∧ t.auxLen = 0 ∧ t.inPtr = 0 ∧ t.inLen = 0 ∧ t.outPtr = 0 ∧ t.outLen = 0 ∧
    t.ctrlWord = 0 ∧ t.statusWord = 0 ∧ t.cmdReg = 0 ∧ t.pending = none ∧ t.irq = false ∧
    ∀ a, t.byteAt a = Config.freeByte (s.resets + 1) a) ∧
  State.reset.sponge = Sponge.zero ∧ State.reset.key0 = 0 ∧ State.reset.key1 = 0 ∧ State.reset.nonce0 = 0 ∧
    State.reset.nonce1 = 0 ∧ State.reset.auxPtr = 0 ∧ State.reset.auxLen = 0 ∧ State.reset.inPtr = 0 ∧
    State.reset.inLen = 0 ∧ State.reset.outPtr = 0 ∧ State.reset.outLen = 0 ∧ State.reset.ctrlWord = 0 ∧
    State.reset.statusWord = 0 ∧ State.reset.cmdReg = 0 ∧ State.reset.pending = none ∧ State.reset.irq = false ∧
    ∀ a, State.reset.byteAt a = Config.freeByte 0 a

/-! ## What every command leaves unchanged, and its errors -/

/-- The frame of every command: region registers, CTRL, CMDREG and WERR never change, key and nonce change under
CLEAR only, and the command completes (10_state.md R24, R25, R27; 41_sponge.md R147; 60_exceptions.md R244;
70_reset_and_hazards.md R279). A PERM count past 15, which no word has, is held to the same
(the model's choice, log entry 13). -/
def Obligations.CommandsKeepOtherRegisters : Prop :=
  ∀ (i : Instr) (s t : State), exec i s = .next t →
    KeepsRest s t ∧ (i ≠ .clear → KeepsKeys s t) ∧ t.busy = false ∧ t.done = true

/-- No command writes a byte outside OUT_PTR .. OUT_PTR + OUT_LEN - 1; a command without regions and a command that
ends with an error write none (60_exceptions.md R241, 70_reset_and_hazards.md R279). A PERM count past 15, which no
word has, is held to the same (the model's choice, log entry 13). -/
def Obligations.CommandsWriteOnlyTheirOutput : Prop :=
  ∀ (i : Instr) (s t : State), exec i s = .next t →
    SameBytesOutside s t s.outPtr.toNat s.outLen.toNat ∧
      (usesRegions i = false → SameBytes s t) ∧ (t.err ≠ .ok → SameBytes s t)

/-- The one code a command reports (60_exceptions.md R242): UNSUPPORTED if the word does not decode, else
INVALID_PARAM if a parameter check fails, else RANGE if a used region fails, else OK, or AUTH_FAIL for AEAD.DEC. -/
def Obligations.ReportedErrorFollowsCheckOrder : Prop :=
  ∀ (s t : State) (w : Word), s.pending = some w → coreTurn s = .next t →
    (∀ why, decode w = .unsupported why → t.err = .unsupported) ∧
    (∀ i, decode w = .command i →
      (¬paramsOk i s → t.err = .invalidParam) ∧
      (paramsOk i s → usesRegions i = true → ¬RegionsFit (usesAux i) s → t.err = .range) ∧
      (paramsOk i s → (usesRegions i = true → RegionsFit (usesAux i) s) →
        t.err = .ok ∨ (i = .aeadDec ∧ t.err = .authFail)))

/-- What a failed command changes (60_exceptions.md R241): nothing but STATUS for a check error; for AUTH_FAIL, S is
zero and no buffer byte is written. -/
def Obligations.FailedCommandEffects : Prop :=
  ∀ (s t : State) (w : Word), s.pending = some w → coreTurn s = .next t →
    ((t.err = .unsupported ∨ t.err = .invalidParam ∨ t.err = .range) → OnlyStatus s t t.err) ∧
    (t.err = .authFail → t.sponge = Sponge.zero ∧ SameBytes s t ∧ KeepsKeys s t ∧ KeepsRest s t ∧
      Completed t .authFail false)

/-! ## The commands -/

/-- PERM n for the counts 0 to 15 the field R holds (40_permutation.md R128). -/
def Obligations.PermMeetsItsRule : Prop :=
  ∀ (n : Nat) (s : State),
    (n ≤ 12 → ∃ t, exec (.perm n) s = .next t ∧ t.sponge = permute n s.sponge ∧ SameBytes s t ∧ KeepsKeys s t ∧
      KeepsRest s t ∧ Completed t .ok false) ∧
    (12 < n → n < 16 → ∃ t, exec (.perm n) s = .next t ∧ OnlyStatus s t .invalidParam) ∧
    (n < 16 → decode (0x01#64 ||| (BitVec.ofNat 64 n <<< 4)) = .command (.perm n)) ∧
    permute 0 s.sponge = s.sponge

/-- CLEAR (41_sponge.md R151). -/
def Obligations.ClearMeetsItsRule : Prop :=
  decode 0x0F = .command .clear ∧
  ∀ s : State, ∃ t, exec .clear s = .next t ∧
    t.sponge.s0 = 0 ∧ t.sponge.s1 = 0 ∧ t.sponge.s2 = 0 ∧ t.sponge.s3 = 0 ∧ t.sponge.s4 = 0 ∧
    t.key0 = 0 ∧ t.key1 = 0 ∧ t.nonce0 = 0 ∧ t.nonce1 = 0 ∧ SameBytes s t ∧ KeepsRest s t ∧ Completed t .ok false

/-- AEAD.ENC (42_aead.md R174). -/
def Obligations.AeadEncMeetsItsRule : Prop :=
  decode 0x02 = .command .aeadEnc ∧
  ∀ s : State,
    (s.outLen.toNat = s.inLen.toNat + 16 → RegionsFit true s → ∃ t, exec .aeadEnc s = .next t ∧
      FaceDone s t false (aeadEncrypt s.key0 s.key1 s.nonce0 s.nonce1 (auxBytes s) (inBytes s))) ∧
    (s.outLen.toNat ≠ s.inLen.toNat + 16 → ∃ t, exec .aeadEnc s = .next t ∧ OnlyStatus s t .invalidParam) ∧
    (s.outLen.toNat = s.inLen.toNat + 16 → ¬RegionsFit true s →
      ∃ t, exec .aeadEnc s = .next t ∧ OnlyStatus s t .range)

/-- AEAD.DEC (42_aead.md R175, R176). -/
def Obligations.AeadDecMeetsItsRule : Prop :=
  decode 0x03 = .command .aeadDec ∧
  ∀ s : State,
    (16 ≤ s.inLen.toNat → s.outLen.toNat = s.inLen.toNat - 16 → RegionsFit true s →
      ((aeadDecrypt s.key0 s.key1 s.nonce0 s.nonce1 (auxBytes s) ((inBytes s).take (s.inLen.toNat - 16))).2 =
          (inBytes s).drop (s.inLen.toNat - 16) →
        ∃ t, exec .aeadDec s = .next t ∧ FaceDone s t true
          (aeadDecrypt s.key0 s.key1 s.nonce0 s.nonce1 (auxBytes s) ((inBytes s).take (s.inLen.toNat - 16))).1) ∧
      ((aeadDecrypt s.key0 s.key1 s.nonce0 s.nonce1 (auxBytes s) ((inBytes s).take (s.inLen.toNat - 16))).2 ≠
          (inBytes s).drop (s.inLen.toNat - 16) →
        ∃ t, exec .aeadDec s = .next t ∧ t.sponge = Sponge.zero ∧ SameBytes s t ∧ KeepsKeys s t ∧ KeepsRest s t ∧
          Completed t .authFail false)) ∧
    ((s.inLen.toNat < 16 ∨ s.outLen.toNat ≠ s.inLen.toNat - 16) →
      ∃ t, exec .aeadDec s = .next t ∧ OnlyStatus s t .invalidParam) ∧
    (16 ≤ s.inLen.toNat → s.outLen.toNat = s.inLen.toNat - 16 → ¬RegionsFit true s →
      ∃ t, exec .aeadDec s = .next t ∧ OnlyStatus s t .range)

/-- HASH256 (43_hash.md R204): the IV word is the rule's. -/
def Obligations.Hash256MeetsItsRule : Prop :=
  decode 0x04 = .command .hash256 ∧
  ∀ s : State,
    (s.outLen.toNat = 32 → RegionsFit false s → ∃ t, exec .hash256 s = .next t ∧
      FaceDone s t false (squeeze 32 (msgAbsorb (inBytes s) (hashInit 0x0000080100CC0002)))) ∧
    (s.outLen.toNat ≠ 32 → ∃ t, exec .hash256 s = .next t ∧ OnlyStatus s t .invalidParam) ∧
    (s.outLen.toNat = 32 → ¬RegionsFit false s → ∃ t, exec .hash256 s = .next t ∧ OnlyStatus s t .range)

/-- XOF128 (43_hash.md R205): any OUT_LEN, zero included. -/
def Obligations.Xof128MeetsItsRule : Prop :=
  decode 0x05 = .command .xof128 ∧
  ∀ s : State,
    (RegionsFit false s → ∃ t, exec .xof128 s = .next t ∧
      FaceDone s t false (squeeze s.outLen.toNat (msgAbsorb (inBytes s) (hashInit 0x0000080000CC0003)))) ∧
    (¬RegionsFit false s → ∃ t, exec .xof128 s = .next t ∧ OnlyStatus s t .range)

/-- CXOF128 (43_hash.md R206): the customization phase runs for every AUX_LEN, zero included. -/
def Obligations.Cxof128MeetsItsRule : Prop :=
  decode 0x06 = .command .cxof128 ∧
  ∀ s : State,
    (s.auxLen.toNat ≤ 256 → RegionsFit true s → ∃ t, exec .cxof128 s = .next t ∧
      FaceDone s t false (squeeze s.outLen.toNat
        (msgAbsorb (inBytes s) (customAbsorb (auxBytes s) (hashInit 0x0000080000CC0004))))) ∧
    (256 < s.auxLen.toNat → ∃ t, exec .cxof128 s = .next t ∧ OnlyStatus s t .invalidParam) ∧
    (s.auxLen.toNat ≤ 256 → ¬RegionsFit true s → ∃ t, exec .cxof128 s = .next t ∧ OnlyStatus s t .range)

/-- MAC (44_mac.md R223). -/
def Obligations.MacMeetsItsRule : Prop :=
  decode 0x07 = .command .mac ∧
  ∀ s : State,
    (s.outLen.toNat ≤ 16 → RegionsFit false s → ∃ t, exec .mac s = .next t ∧
      FaceDone s t false
        (macPrfSqueeze s.outLen.toNat (macPrfAbsorb (inBytes s) (macPrfInit 128 s.key0 s.key1)))) ∧
    (16 < s.outLen.toNat → ∃ t, exec .mac s = .next t ∧ OnlyStatus s t .invalidParam) ∧
    (s.outLen.toNat ≤ 16 → ¬RegionsFit false s → ∃ t, exec .mac s = .next t ∧ OnlyStatus s t .range)

/-- PRF (44_mac.md R224). -/
def Obligations.PrfMeetsItsRule : Prop :=
  decode 0x08 = .command .prf ∧
  ∀ s : State,
    (RegionsFit false s → ∃ t, exec .prf s = .next t ∧
      FaceDone s t false
        (macPrfSqueeze s.outLen.toNat (macPrfAbsorb (inBytes s) (macPrfInit 0 s.key0 s.key1)))) ∧
    (¬RegionsFit false s → ∃ t, exec .prf s = .next t ∧ OnlyStatus s t .range)

/-- PRFSHORT (44_mac.md R225): the output, written out from the rule. -/
def Obligations.PrfshortMeetsItsRule : Prop :=
  decode 0x09 = .command .prfshort ∧
  ∀ s : State,
    (s.inLen.toNat ≤ 16 → s.outLen.toNat ≤ 16 → RegionsFit false s → ∃ t, exec .prfshort s = .next t ∧
      FaceDone s t false
        (let x := permute 12 (loadState ([128, BitVec.ofNat 8 (8 * s.inLen.toNat), 76,
            BitVec.ofNat 8 (8 * s.outLen.toNat), 0, 0, 0, 0] ++ s.keyBytes ++ inBytes s ++
            List.replicate (16 - s.inLen.toNat) 0))
        (bytes8 (x.s3 ^^^ s.key0) ++ bytes8 (x.s4 ^^^ s.key1)).take s.outLen.toNat)) ∧
    ((16 < s.inLen.toNat ∨ 16 < s.outLen.toNat) →
      ∃ t, exec .prfshort s = .next t ∧ OnlyStatus s t .invalidParam) ∧
    (s.inLen.toNat ≤ 16 → s.outLen.toNat ≤ 16 → ¬RegionsFit false s →
      ∃ t, exec .prfshort s = .next t ∧ OnlyStatus s t .range)

/-! ## The permutation -/

/-- Rotation (40_permutation.md R120): the rule's formula, and bit i of the result is bit (i + n) mod 64 of x. -/
def Obligations.RotationMovesBits : Prop :=
  ∀ (x : Word) (n i : Nat), 1 ≤ n → n ≤ 63 → i < 64 →
    rotr64 x n = (x >>> n) ||| (x <<< (64 - n)) ∧ (rotr64 x n).getLsbD i = x.getLsbD ((i + n) % 64)

/-- The two forms of the round constant agree, and the constant-addition layer changes bits 7:0 of S[2] only, by
XOR with it (40_permutation.md R121, R122). -/
def Obligations.RoundConstantLayer : Prop :=
  ∀ (r : Nat) (s : Sponge), r ≤ 11 →
    (roundConstant r).toNat = 0xF0 - r * 0x10 + r ∧ (roundConstant r).toNat = ((0xF - r) <<< 4) ||| r ∧
    (layerC r s).s0 = s.s0 ∧ (layerC r s).s1 = s.s1 ∧ (layerC r s).s3 = s.s3 ∧ (layerC r s).s4 = s.s4 ∧
    (∀ i, 8 ≤ i → (layerC r s).s2.getLsbD i = s.s2.getLsbD i) ∧
    (∀ i, i < 8 → (layerC r s).s2.getLsbD i = (s.s2.getLsbD i ^^ (roundConstant r).getLsbD i))

/-- The lane view of the substitution layer (40_permutation.md R124): each of the 64 bit columns goes through the
5-bit S-box of the rule's table, which the spec marks as derived from R123. -/
def Obligations.SubstitutionIsTheSbox : Prop :=
  ∀ (s : Sponge) (j : Nat), j < 64 → sboxTable[s.column j]? = some ((layerS s).column j)

/-- The linear layer bit by bit (40_permutation.md R120, R125). -/
def Obligations.DiffusionMixesEachWord : Prop :=
  ∀ (s : Sponge) (j : Nat), j < 64 →
    (layerL s).s0.getLsbD j = (s.s0.getLsbD j ^^ s.s0.getLsbD ((j + 19) % 64) ^^ s.s0.getLsbD ((j + 28) % 64)) ∧
    (layerL s).s1.getLsbD j = (s.s1.getLsbD j ^^ s.s1.getLsbD ((j + 61) % 64) ^^ s.s1.getLsbD ((j + 39) % 64)) ∧
    (layerL s).s2.getLsbD j = (s.s2.getLsbD j ^^ s.s2.getLsbD ((j + 1) % 64) ^^ s.s2.getLsbD ((j + 6) % 64)) ∧
    (layerL s).s3.getLsbD j = (s.s3.getLsbD j ^^ s.s3.getLsbD ((j + 10) % 64) ^^ s.s3.getLsbD ((j + 17) % 64)) ∧
    (layerL s).s4.getLsbD j = (s.s4.getLsbD j ^^ s.s4.getLsbD ((j + 7) % 64) ^^ s.s4.getLsbD ((j + 41) % 64))

/-- Perm(n) runs the rounds 12 - n to 11 in ascending order (40_permutation.md R127). -/
def Obligations.PermuteRunsTheLastRounds : Prop :=
  ∀ (n : Nat) (s : Sponge), n ≤ 12 →
    permute n s = (List.range' (12 - n) n).foldl (fun x r => layerL (layerS (layerC r x))) s

/-! ## Converters, padding and initial states -/

/-- LE64 and BYTES8 are inverse, and byte j is bits 8j+7:8j (20_memory.md R68, R69). -/
def Obligations.ConvertersAreInverse : Prop :=
  (∀ w : Word, le64 (bytes8 w) = w ∧ ∀ j, j < 8 → (bytes8 w)[j]? = some (w.extractLsb' (8 * j) 8)) ∧
  ∀ b : List Byte, b.length = 8 → bytes8 (le64 b) = b

/-- Padding (41_sponge.md R141): the sequence, then 0x01, then zeros, up to the least multiple of the block size
that is greater than the length. -/
def Obligations.PaddingFillsTheLastBlock : Prop :=
  ∀ (x : List Byte) (r : Nat), (r = 8 ∨ r = 16 ∨ r = 32) →
    pad x r = x ++ [0x01] ++ List.replicate (r - x.length % r - 1) 0 ∧
    (pad x r).length = r * (x.length / r + 1) ∧
    (padBlocks x r).length = x.length / r + 1 ∧ (padBlocks x r).flatten = pad x r ∧
    ∀ b ∈ padBlocks x r, b.length = r

/-- The initial states before the permutation, as words (42_aead.md R171, 43_hash.md R200, 44_mac.md R220). -/
def Obligations.InitialStatesAsWords : Prop :=
  (∀ k0 k1 n0 n1 : Word,
    let x := permute 12 { s0 := 0x00001000808C0001, s1 := k0, s2 := k1, s3 := n0, s4 := n1 }
    aeadInit k0 k1 n0 n1 = { s0 := x.s0, s1 := x.s1, s2 := x.s2, s3 := x.s3 ^^^ k0, s4 := x.s4 ^^^ k1 }) ∧
  (∀ iv : Word, hashInit iv = permute 12 { s0 := iv, s1 := 0, s2 := 0, s3 := 0, s4 := 0 }) ∧
  (∀ k0 k1 : Word, macPrfInit 128 k0 k1 =
    permute 12 { s0 := 0x00000080008C8080, s1 := k0, s2 := k1, s3 := 0, s4 := 0 }) ∧
  (∀ k0 k1 : Word, macPrfInit 0 k0 k1 =
    permute 12 { s0 := 0x00000000008C8080, s1 := k0, s2 := k1, s3 := 0, s4 := 0 }) ∧
  ivHash256 = 0x0000080100CC0002 ∧ ivXof128 = 0x0000080000CC0003 ∧ ivCxof128 = 0x0000080000CC0004

/-- Empty inputs: the separator alone for empty AD, one padding block for an empty message, two blocks for an empty
customization string (42_aead.md R172, 43_hash.md R201, R202; 90_conflicts.md C7). -/
def Obligations.EmptyInputsAreAbsorbed : Prop :=
  ∀ s : Sponge,
    aeadAbsorbAD [] s = { s with s4 := s.s4 ^^^ 0x8000000000000000 } ∧
    msgAbsorb [] s = permute 12 { s with s0 := s.s0 ^^^ 1 } ∧
    customAbsorb [] s = permute 12 { permute 12 s with s0 := (permute 12 s).s0 ^^^ 1 } ∧
    macPrfAbsorb [] s = { s with s0 := s.s0 ^^^ 1, s4 := s.s4 ^^^ 1 }

/-- The AEAD phases over every input: associated data block by block with Perm(8) after each, the last included, then
the separator; and the finalisation (42_aead.md R172, R173). -/
def Obligations.AeadPhasesFoldOverBlocks : Prop :=
  (∀ (ad : List Byte) (s : Sponge),
    let x := if ad = [] then s else (padBlocks ad 16).foldl (fun x b => permute 8 (x.xor2 b)) s
    aeadAbsorbAD ad s = { x with s4 := x.s4 ^^^ 0x8000000000000000 }) ∧
  ∀ (k0 k1 : Word) (s : Sponge),
    let x := permute 12 { s with s2 := s.s2 ^^^ k0, s3 := s.s3 ^^^ k1 }
    aeadFinalize k0 k1 s = bytes8 (x.s3 ^^^ k0) ++ bytes8 (x.s4 ^^^ k1)

/-- The block loops of AEAD.ENC and AEAD.DEC (42_aead.md R174, R175) over every length: every block but the last emits
S[0] and S[1] and is followed by Perm(8), the last is not; what the last emits; and the state both hand to
finalisation. -/
def Obligations.AeadBlockLoops : Prop :=
  (∀ (k0 k1 n0 n1 : Word) (ad pt : List Byte) (front : List (List Byte)) (last : List Byte),
    padBlocks pt 16 = front ++ [last] →
    let l := pt.length % 16
    let e := front.foldl (fun (p : List Byte × Sponge) b =>
        let y := p.2.xor2 b
        (p.1 ++ bytes8 y.s0 ++ bytes8 y.s1, permute 8 y)) ([], aeadAbsorbAD ad (aeadInit k0 k1 n0 n1))
    let y := e.2.xor2 last
    aeadEncrypt k0 k1 n0 n1 ad pt =
      e.1 ++ (bytes8 y.s0).take (min 8 l) ++ (bytes8 y.s1).take (l - 8) ++ aeadFinalize k0 k1 y) ∧
  ∀ (k0 k1 n0 n1 : Word) (ad ct : List Byte) (front : List (List Byte)) (last : List Byte),
    let l := ct.length % 16
    blocks 16 (ct.length / 16 + 1) (ct ++ List.replicate (16 - l) 0) = front ++ [last] →
    let e := front.foldl (fun (p : List Byte × Sponge) b =>
        (p.1 ++ bytes8 (p.2.s0 ^^^ le64 (slice b 0 8)) ++ bytes8 (p.2.s1 ^^^ le64 (slice b 8 8)),
          permute 8 { p.2 with s0 := le64 (slice b 0 8), s1 := le64 (slice b 8 8) }))
      ([], aeadAbsorbAD ad (aeadInit k0 k1 n0 n1))
    let c0 := le64 (slice last 0 8)
    let c1 := le64 (slice last 8 8)
    let mk := List.replicate l 0x00 ++ List.replicate (16 - l) 0xFF
    let pd := List.replicate l 0x00 ++ [0x01] ++ List.replicate (15 - l) 0x00
    aeadDecrypt k0 k1 n0 n1 ad ct =
      (e.1 ++ (bytes8 (e.2.s0 ^^^ c0) ++ bytes8 (e.2.s1 ^^^ c1)).take l,
        aeadFinalize k0 k1 { e.2 with
          s0 := (e.2.s0 &&& le64 (slice mk 0 8)) ^^^ c0 ^^^ le64 (slice pd 0 8)
          s1 := (e.2.s1 &&& le64 (slice mk 8 8)) ^^^ c1 ^^^ le64 (slice pd 8 8) })

/-- The hash phases over every input: one word a block and Perm(12) after every block, the last included, for the
length word with the customization string and for the message; and the squeeze, which emits S[0] before it permutes
(43_hash.md R201, R202, R203). -/
def Obligations.HashPhasesFoldOverBlocks : Prop :=
  (∀ (z : List Byte) (s : Sponge), customAbsorb z s =
    (padBlocks (bytes8 (BitVec.ofNat 64 (8 * z.length)) ++ z) 8).foldl (fun x b => permute 12 (x.xor1 b)) s) ∧
  (∀ (m : List Byte) (s : Sponge), msgAbsorb m s =
    (padBlocks m 8).foldl (fun x b => permute 12 (x.xor1 b)) s) ∧
  (∀ (n : Nat) (s : Sponge), squeeze n s =
    ((List.range ((n + 7) / 8)).flatMap fun i => bytes8 ((permute 12)^[i] s).s0).take n) ∧
  ∀ (m n : Nat) (s : Sponge), m ≤ n → squeeze m s = (squeeze n s).take m

/-- The MAC and PRF phases over every input: four words a block, Perm(12) between blocks only, then the end marker;
and the squeeze, one Perm(12) and then S[0] and S[1] before each further one (44_mac.md R221, R222). -/
def Obligations.MacPhasesFoldOverBlocks : Prop :=
  (∀ (m : List Byte) (s : Sponge) (front : List (List Byte)) (last : List Byte), padBlocks m 32 = front ++ [last] →
    let x := (front.foldl (fun x b => permute 12 (x.xor4 b)) s).xor4 last
    macPrfAbsorb m s = { x with s4 := x.s4 ^^^ 1 }) ∧
  ∀ (n : Nat) (s : Sponge), macPrfSqueeze n s =
    ((List.range ((n + 15) / 16)).flatMap fun i =>
      bytes8 ((permute 12)^[i + 1] s).s0 ++ bytes8 ((permute 12)^[i + 1] s).s1).take n

/-! ## Laws of the faces -/

/-- Round trip of the algorithm (42_aead.md R177, law 2): decryption of the ciphertext gives the plaintext back and
computes the very tag encryption appended. -/
def Obligations.DecryptUndoesEncrypt : Prop :=
  ∀ (k0 k1 n0 n1 : Word) (ad pt : List Byte),
    aeadDecrypt k0 k1 n0 n1 ad ((aeadEncrypt k0 k1 n0 n1 ad pt).take pt.length) =
      (pt, (aeadEncrypt k0 k1 n0 n1 ad pt).drop pt.length)

/-- Round trip of the machine (42_aead.md R177, law 2): after a successful AEAD.ENC, AEAD.DEC of its output region,
in place and with the same key, nonce and AD, succeeds and writes the plaintext back. -/
def Obligations.DecCommandUndoesEncCommand : Prop :=
  ∀ s t : State, exec .aeadEnc s = .next t → t.err = .ok →
    ∃ u, exec .aeadDec { t with inPtr := s.outPtr, inLen := s.outLen, outPtr := s.outPtr, outLen := s.inLen } = .next u ∧
      u.err = .ok ∧ u.authok = true ∧ u.memRead s.outPtr.toNat s.inLen.toNat = inBytes s

/-- Determinism of the faces (42_aead.md R177, 43_hash.md R207, 44_mac.md R226; 41_sponge.md R149): the outcome is a
function of the operands the command reads; S before the command, the buffer outside the regions and every other
register play no part. -/
def Obligations.FaceResultsDependOnOperandsOnly : Prop :=
  ∀ (i : Instr) (s t s' t' : State), usesRegions i = true → SameOperands i s s' →
    exec i s = .next t → exec i s' = .next t' →
    t'.err = t.err ∧ t'.authok = t.authok ∧
      (t.err = .ok → t'.memRead s.outPtr.toNat s.outLen.toNat = t.memRead s.outPtr.toNat s.outLen.toNat)

/-- Prefix laws (43_hash.md R203, R207; 44_mac.md R222, R226). -/
def Obligations.ShorterOutputsArePrefixes : Prop :=
  ∀ (m n : Nat) (x : Sponge), m ≤ n →
    squeeze m x = (squeeze n x).take m ∧ macPrfSqueeze m x = (macPrfSqueeze n x).take m

/-! ## The host port -/

/-- Which transactions answer ERROR, and that those change nothing and read 0 (20_memory.md R61, R62;
60_exceptions.md R243). -/
def Obligations.ErrorResponsesChangeNothing : Prop :=
  ∀ (s : State) (off : Offset) (d : Word),
    (Unmapped s.cfg.bufBytes off.toNat → s.hostRead off = (0, .error) ∧ s.hostWrite off d = (s, .error)) ∧
    (¬Unmapped s.cfg.bufBytes off.toNat → (s.hostRead off).2 = .okay ∧ (s.hostWrite off d).2 = .okay)

/-- The buffer window (20_memory.md R65): lane by lane, idle and busy. -/
def Obligations.BufferWindowLanes : Prop :=
  ∀ (s : State) (k : Nat) (off : Offset) (d : Word), s.cfg.valid → k < s.cfg.bufBytes / 8 →
    off.toNat = 0x10000 + 8 * k →
    (s.busy = true → s.hostRead off = (0, .okay) ∧ s.hostWrite off d = ({ s with werr := true }, .okay)) ∧
    (s.busy = false →
      (s.hostRead off).2 = .okay ∧
      (∀ j, j < 8 → (s.hostRead off).1.extractLsb' (8 * j) 8 = s.byteAt (8 * k + j)) ∧
      (s.hostWrite off d).2 = .okay ∧
      (∀ j, j < 8 → (s.hostWrite off d).1.byteAt (8 * k + j) = d.extractLsb' (8 * j) 8) ∧
      SameBytesOutside s (s.hostWrite off d).1 (8 * k) 8 ∧
      (s.hostWrite off d).1 = { s with buf := (s.hostWrite off d).1.buf } ∧
      (s.hostWrite off d).1.hostRead off = (d, .okay))

/-- WERR (60_exceptions.md R244): a guarded write while BUSY = 1 is dropped, answers OKAY and does nothing but set
WERR; no write while idle sets it; no command clears it; reset does, and of the host's writes only one of STATUS with
bit 2 = 1. -/
def Obligations.DroppedWritesSetWerr : Prop :=
  (∀ (s : State) (r : Reg) (d : Word), s.busy = true → r.guarded →
    s.hostWrite r.off d = ({ s with werr := true }, .okay)) ∧
  (∀ (s : State) (k : Nat) (off : Offset) (d : Word), s.busy = true → targetOf s.cfg.bufBytes off = .buf k →
    s.hostWrite off d = ({ s with werr := true }, .okay)) ∧
  (∀ (s : State) (off : Offset) (d : Word), s.busy = false → s.werr = false → (s.hostWrite off d).1.werr = false) ∧
  (∀ s t : State, coreTurn s = .next t → t.werr = s.werr) ∧
  (∀ s : State, (resetTurn s).werr = false) ∧
  (∀ (s : State) (off : Offset) (d : Word), s.werr = true →
    ((s.hostWrite off d).1.werr = false ↔ off.toNat = 0x08 ∧ d.getLsbD 2 = true))

/-- What the host cannot see: while BUSY = 1 a read of S or of the buffer gives 0, a read of the key gives 0 always,
and no other read depends on any of them (10_state.md R20, R22; 20_memory.md R65; 70_reset_and_hazards.md R273). -/
def Obligations.BusyReadsHideTheState : Prop :=
  ∀ (s : State) (x : Sponge) (b : Memory) (k0 k1 : Word) (off : Offset),
    s.hostRead 0x50 = (0, .okay) ∧ s.hostRead 0x58 = (0, .okay) ∧
    (s.busy = true →
      s.hostRead 0x20 = (0, .okay) ∧ s.hostRead 0x28 = (0, .okay) ∧ s.hostRead 0x30 = (0, .okay) ∧
      s.hostRead 0x38 = (0, .okay) ∧ s.hostRead 0x40 = (0, .okay) ∧
      ∀ k, targetOf s.cfg.bufBytes off = .buf k → s.hostRead off = (0, .okay)) ∧
    State.hostRead { s with key0 := k0, key1 := k1 } off = s.hostRead off ∧
    (s.busy = true → State.hostRead { s with sponge := x, buf := b } off = s.hostRead off)

/-- STATUS (10_state.md R26): its bits as read, the number of each error code (60_exceptions.md R240), and its write,
accepted whatever BUSY is. -/
def Obligations.StatusBitsAndClearing : Prop :=
  ∀ (s : State) (d : Word),
    (s.hostRead 0x08).2 = .okay ∧
    (s.hostRead 0x08).1.getLsbD 0 = s.busy ∧ (s.hostRead 0x08).1.getLsbD 1 = s.done ∧
    (s.hostRead 0x08).1.getLsbD 2 = s.werr ∧ (s.hostRead 0x08).1.getLsbD 3 = false ∧
    ((s.hostRead 0x08).1.extractLsb' 4 4).toNat = s.err.code ∧
    (s.err = .ok → (s.hostRead 0x08).1.extractLsb' 4 4 = 0) ∧
    (s.err = .invalidParam → (s.hostRead 0x08).1.extractLsb' 4 4 = 1) ∧
    (s.err = .authFail → (s.hostRead 0x08).1.extractLsb' 4 4 = 2) ∧
    (s.err = .unsupported → (s.hostRead 0x08).1.extractLsb' 4 4 = 3) ∧
    (s.err = .range → (s.hostRead 0x08).1.extractLsb' 4 4 = 4) ∧
    (s.hostRead 0x08).1.getLsbD 8 = s.authok ∧
    (∀ i, 9 ≤ i → (s.hostRead 0x08).1.getLsbD i = false) ∧
    s.hostWrite 0x08 d = ({ s with done := s.done && !d.getLsbD 1, werr := s.werr && !d.getLsbD 2 }, .okay)

/-- Command issue (41_sponge.md R146). -/
def Obligations.CmdWriteIssues : Prop :=
  ∀ (s : State) (w : Word),
    (s.busy = true → s.hostWrite 0x10 w = ({ s with werr := true }, .okay)) ∧
    (s.busy = false → ∃ t, s.hostWrite 0x10 w = (t, .okay) ∧ t.cmdReg = w ∧ t.pending = some w ∧ t.busy = true ∧
      t.done = false ∧ t.err = .ok ∧ t.authok = false ∧
      t = { s with cmdReg := w, pending := some w, done := false, err := .ok, authok := false })

/-- Register write and read back, with the reserved bits, CTRL whatever BUSY is and the others while idle, and the
host's reads of every other register (10_state.md R20, R22 to R25; 20_memory.md R63). What a write changes in the state,
the unreadable key included, is RegisterAccessIsExact. -/
def Obligations.RegistersReadBack : Prop :=
  ∀ (s : State) (r : Reg) (d : Word),
    (r = .ctrl → (s.hostWrite r.off d).1.hostRead r.off = (d &&& 1, .okay)) ∧
    (s.busy = false →
      (r ∈ [Reg.s0, .s1, .s2, .s3, .s4, .nonce0, .nonce1] →
        (s.hostWrite r.off d).1.hostRead r.off = (d, .okay)) ∧
      (r ∈ [Reg.auxPtr, .auxLen, .inPtr, .inLen, .outPtr, .outLen] →
        (s.hostWrite r.off d).1.hostRead r.off = (d &&& 0xFFFFFFFF, .okay)) ∧
      (r = .key0 → (s.hostWrite r.off d).1.key0 = d) ∧ (r = .key1 → (s.hostWrite r.off d).1.key1 = d) ∧
      (r ≠ .cmd → ∀ q : Reg, q ≠ r → (s.hostWrite r.off d).1.hostRead q.off = s.hostRead q.off))

/-- What each register access does, exactly: the reads of CTRL, CMD, NONCE and the region registers and the write of
CTRL whatever BUSY is; while BUSY = 0, the reads of S, and each write of S, key, nonce and region registers, which
changes that one register and nothing else, so that none aliases another (10_state.md R20, R22 to R25, R27;
70_reset_and_hazards.md R273). -/
def Obligations.RegisterAccessIsExact : Prop :=
  ∀ (s : State) (d : Word),
    s.hostRead 0x00 = (BitVec.ofNat 64 s.ie.toNat, .okay) ∧ s.hostRead 0x10 = (s.cmdReg, .okay) ∧
    s.hostRead 0x60 = (s.nonce0, .okay) ∧ s.hostRead 0x68 = (s.nonce1, .okay) ∧
    s.hostRead 0x70 = (s.auxPtr.zeroExtend 64, .okay) ∧ s.hostRead 0x78 = (s.auxLen.zeroExtend 64, .okay) ∧
    s.hostRead 0x80 = (s.inPtr.zeroExtend 64, .okay) ∧ s.hostRead 0x88 = (s.inLen.zeroExtend 64, .okay) ∧
    s.hostRead 0x90 = (s.outPtr.zeroExtend 64, .okay) ∧ s.hostRead 0x98 = (s.outLen.zeroExtend 64, .okay) ∧
    s.hostWrite 0x00 d = ({ s with ie := d.getLsbD 0 }, .okay) ∧
    (s.busy = false →
      s.hostRead 0x20 = (s.sponge.s0, .okay) ∧ s.hostRead 0x28 = (s.sponge.s1, .okay) ∧
      s.hostRead 0x30 = (s.sponge.s2, .okay) ∧ s.hostRead 0x38 = (s.sponge.s3, .okay) ∧
      s.hostRead 0x40 = (s.sponge.s4, .okay) ∧
      s.hostWrite 0x20 d = ({ s with sponge := { s.sponge with s0 := d } }, .okay) ∧
      s.hostWrite 0x28 d = ({ s with sponge := { s.sponge with s1 := d } }, .okay) ∧
      s.hostWrite 0x30 d = ({ s with sponge := { s.sponge with s2 := d } }, .okay) ∧
      s.hostWrite 0x38 d = ({ s with sponge := { s.sponge with s3 := d } }, .okay) ∧
      s.hostWrite 0x40 d = ({ s with sponge := { s.sponge with s4 := d } }, .okay) ∧
      s.hostWrite 0x50 d = ({ s with key0 := d }, .okay) ∧ s.hostWrite 0x58 d = ({ s with key1 := d }, .okay) ∧
      s.hostWrite 0x60 d = ({ s with nonce0 := d }, .okay) ∧ s.hostWrite 0x68 d = ({ s with nonce1 := d }, .okay) ∧
      s.hostWrite 0x70 d = ({ s with auxPtr := d.extractLsb' 0 32 }, .okay) ∧
      s.hostWrite 0x78 d = ({ s with auxLen := d.extractLsb' 0 32 }, .okay) ∧
      s.hostWrite 0x80 d = ({ s with inPtr := d.extractLsb' 0 32 }, .okay) ∧
      s.hostWrite 0x88 d = ({ s with inLen := d.extractLsb' 0 32 }, .okay) ∧
      s.hostWrite 0x90 d = ({ s with outPtr := d.extractLsb' 0 32 }, .okay) ∧
      s.hostWrite 0x98 d = ({ s with outLen := d.extractLsb' 0 32 }, .okay))

/-- The interrupt (60_exceptions.md R247): the level of CTRL.IE and DONE, raised by every completion, cleared by a
write of STATUS with bit 1 = 1 or by the acceptance of the next command, masked by CTRL.IE = 0. -/
def Obligations.InterruptFollowsDone : Prop :=
  (∀ s : State, s.irq = true ↔ s.ie = true ∧ s.done = true) ∧
  (∀ (s t : State) (w : Word), s.pending = some w → coreTurn s = .next t → t.irq = s.ie) ∧
  (∀ (s : State) (d : Word), d.getLsbD 1 = true → (s.hostWrite 0x08 d).1.irq = false) ∧
  (∀ (s : State) (w : Word), s.busy = false → (s.hostWrite 0x10 w).1.irq = false) ∧
  (∀ (s : State) (d : Word), d.getLsbD 0 = false → (s.hostWrite 0x00 d).1.irq = false)

/-! ## The host's statements and the interleaving -/

/-- A host statement is one transaction, and a read changes nothing but the host (20_memory.md R63;
30_encoding.md R107). The host agent and its log are the model's own field (log entry 3). -/
def Obligations.HostStatementIsOneTransaction : Prop :=
  ∀ (s : State) (off : Offset) (d mask value : Word) (label : Nat),
    (s.hostStmt = some (.wr off d) → hostTurn s = { (s.hostWrite off d).1 with host :=
      { s.host with pos := s.host.pos + 1, log := s.host.log ++ [.written (s.hostWrite off d).2] } }) ∧
    (s.hostStmt = some (.rd off) → hostTurn s = { s with host :=
      { s.host with pos := s.host.pos + 1, log := s.host.log ++ [.read (s.hostRead off).1 (s.hostRead off).2] } }) ∧
    (s.hostStmt = some (.bne off mask value label) → hostTurn s = { s with host :=
      { s.host with pos := if (s.hostRead off).1 &&& mask ≠ value then label else s.host.pos + 1,
                    log := s.host.log ++ [.read (s.hostRead off).1 (s.hostRead off).2] } })

/-- WAIT (30_encoding.md R108): the statement it expands to is repeated while BUSY = 1 and left when BUSY = 0. The
statement's position as its fresh label is the model's choice (log entry 14). -/
def Obligations.WaitRepeatsWhileBusy : Prop :=
  ∀ (s : State) (place : List (Nat × Nat)) (x : HostStmt), AsmLine.expand place s.host.pos .wait = some [x] →
    s.hostStmt = some x →
    (s.busy = true → (hostTurn s).host.pos = s.host.pos) ∧
    (s.busy = false → (hostTurn s).host.pos = s.host.pos + 1)

/-- Each pseudo-instruction expands into as many statements as 30_encoding.md R108 gives it, the count by which the
model places labels (log entry 14). -/
def Obligations.ExpansionSizes : Prop :=
  ∀ (place : List (Nat × Nat)) (pos : Nat) (x : AsmLine) (l : List HostStmt),
    x.expand place pos = some l → l.length = x.size

/-- RDBYTES and WRBYTES on an idle machine, k a multiple of 8 and the words inside the buffer (30_encoding.md R108):
after the host's turns for the line's statements, the result of RDBYTES is the m buffer bytes from k on and only the
host has changed; WRBYTES has stored its bytes, zeros after them up to a multiple of 8, and nothing else. The host agent
is the model's own field (log entry 3). -/
def Obligations.ByteLinesMoveTheBytes : Prop :=
  ∀ (s : State) (k : Nat) (place : List (Nat × Nat)) (l : List HostStmt),
    s.busy = false → s.cfg.valid → k % 8 = 0 → l <+: s.host.program.drop s.host.pos →
    (∀ m : Nat, (AsmLine.rdBytes k m).expand place s.host.pos = some l → k + 8 * ((m + 7) / 8) ≤ s.cfg.bufBytes →
      let t := hostTurn^[l.length] s
      t.host.rdResult s.host.log.length m = s.memRead k m ∧ t.host.pos = s.host.pos + l.length ∧
        t = { s with host := t.host }) ∧
    (∀ b : List Byte, (AsmLine.wrBytes k b).expand place s.host.pos = some l →
      k + 8 * ((b.length + 7) / 8) ≤ s.cfg.bufBytes →
      let t := hostTurn^[l.length] s
      t.memRead k (8 * ((b.length + 7) / 8)) = b ++ List.replicate (8 * ((b.length + 7) / 8) - b.length) 0 ∧
        SameBytesOutside s t k (8 * ((b.length + 7) / 8)) ∧ t.host.pos = s.host.pos + l.length ∧
        t = { s with host := t.host, buf := t.buf })

/-- Both orders of a guarded host write (a guarded register or the buffer window) and the completion of the command in
flight are steps of the machine (20_memory.md R74, 60_exceptions.md R244, R248). With the core first the step is the
execution, and the host's turn then finds BUSY = 0: the write has exactly its idle effect and does not set WERR. With
the host first the write is dropped: it sets WERR and changes nothing else, the command still in flight. The order is
the model's own field `schedule` (log entry 4). -/
def Obligations.BothOrdersAdmitted : Prop :=
  ∀ (s : State) (rest : List Turn) (off : Offset) (d : Word), s.busy = true → GuardedOffset s.cfg.bufBytes off →
    s.hostStmt = some (.wr off d) →
    (∃ t u, step { s with schedule := .core :: .host :: rest } = .next t ∧
      coreTurn { s with schedule := .host :: rest } = .next t ∧ t.busy = false ∧ step t = .next u ∧
      u = { (t.hostWrite off d).1 with schedule := rest, host :=
        { s.host with pos := s.host.pos + 1, log := s.host.log ++ [.written .okay] } } ∧
      u.werr = s.werr ∧ (off = Reg.cmd.off → u.pending = some d)) ∧
    step { s with schedule := .host :: rest } = .next { s with werr := true, schedule := rest, host :=
      { s.host with pos := s.host.pos + 1, log := s.host.log ++ [.written .okay] } }

/-- Without a turn to come, a run that is over stays as it is (60_exceptions.md R254, 70_reset_and_hazards.md
R278). That an empty schedule lets it rest is the model's choice (log entry 4). -/
def Obligations.EndedRunStays : Prop :=
  ∀ s : State, s.ended = true → s.schedule = [] → step s = .next s
end

