-- ==== Sys2Proof/Laws/State.lean ====
section
/-! SUPPORT. What each update of State does to each field: one lemma per field per update, true by rfl. -/

namespace Sys2Proof.Machine

section
variable (s : State) (x : Sponge)
@[simp] theorem State.withSponge_sponge : (s.withSponge x).sponge = x := rfl
@[simp] theorem State.withSponge_key0 : (s.withSponge x).key0 = s.key0 := rfl
@[simp] theorem State.withSponge_key1 : (s.withSponge x).key1 = s.key1 := rfl
@[simp] theorem State.withSponge_nonce0 : (s.withSponge x).nonce0 = s.nonce0 := rfl
@[simp] theorem State.withSponge_nonce1 : (s.withSponge x).nonce1 = s.nonce1 := rfl
@[simp] theorem State.withSponge_auxPtr : (s.withSponge x).auxPtr = s.auxPtr := rfl
@[simp] theorem State.withSponge_auxLen : (s.withSponge x).auxLen = s.auxLen := rfl
@[simp] theorem State.withSponge_inPtr : (s.withSponge x).inPtr = s.inPtr := rfl
@[simp] theorem State.withSponge_inLen : (s.withSponge x).inLen = s.inLen := rfl
@[simp] theorem State.withSponge_outPtr : (s.withSponge x).outPtr = s.outPtr := rfl
@[simp] theorem State.withSponge_outLen : (s.withSponge x).outLen = s.outLen := rfl
@[simp] theorem State.withSponge_ie : (s.withSponge x).ie = s.ie := rfl
@[simp] theorem State.withSponge_done : (s.withSponge x).done = s.done := rfl
@[simp] theorem State.withSponge_werr : (s.withSponge x).werr = s.werr := rfl
@[simp] theorem State.withSponge_err : (s.withSponge x).err = s.err := rfl
@[simp] theorem State.withSponge_authok : (s.withSponge x).authok = s.authok := rfl
@[simp] theorem State.withSponge_cmdReg : (s.withSponge x).cmdReg = s.cmdReg := rfl
@[simp] theorem State.withSponge_pending : (s.withSponge x).pending = s.pending := rfl
@[simp] theorem State.withSponge_buf : (s.withSponge x).buf = s.buf := rfl
@[simp] theorem State.withSponge_cfg : (s.withSponge x).cfg = s.cfg := rfl
@[simp] theorem State.withSponge_resets : (s.withSponge x).resets = s.resets := rfl
@[simp] theorem State.withSponge_schedule : (s.withSponge x).schedule = s.schedule := rfl
@[simp] theorem State.withSponge_host : (s.withSponge x).host = s.host := rfl
end

section
variable (s : State)
@[simp] theorem State.zeroSponge_sponge : (s.zeroSponge).sponge = Sponge.zero := rfl
@[simp] theorem State.zeroSponge_key0 : (s.zeroSponge).key0 = s.key0 := rfl
@[simp] theorem State.zeroSponge_key1 : (s.zeroSponge).key1 = s.key1 := rfl
@[simp] theorem State.zeroSponge_nonce0 : (s.zeroSponge).nonce0 = s.nonce0 := rfl
@[simp] theorem State.zeroSponge_nonce1 : (s.zeroSponge).nonce1 = s.nonce1 := rfl
@[simp] theorem State.zeroSponge_auxPtr : (s.zeroSponge).auxPtr = s.auxPtr := rfl
@[simp] theorem State.zeroSponge_auxLen : (s.zeroSponge).auxLen = s.auxLen := rfl
@[simp] theorem State.zeroSponge_inPtr : (s.zeroSponge).inPtr = s.inPtr := rfl
@[simp] theorem State.zeroSponge_inLen : (s.zeroSponge).inLen = s.inLen := rfl
@[simp] theorem State.zeroSponge_outPtr : (s.zeroSponge).outPtr = s.outPtr := rfl
@[simp] theorem State.zeroSponge_outLen : (s.zeroSponge).outLen = s.outLen := rfl
@[simp] theorem State.zeroSponge_ie : (s.zeroSponge).ie = s.ie := rfl
@[simp] theorem State.zeroSponge_done : (s.zeroSponge).done = s.done := rfl
@[simp] theorem State.zeroSponge_werr : (s.zeroSponge).werr = s.werr := rfl
@[simp] theorem State.zeroSponge_err : (s.zeroSponge).err = s.err := rfl
@[simp] theorem State.zeroSponge_authok : (s.zeroSponge).authok = s.authok := rfl
@[simp] theorem State.zeroSponge_cmdReg : (s.zeroSponge).cmdReg = s.cmdReg := rfl
@[simp] theorem State.zeroSponge_pending : (s.zeroSponge).pending = s.pending := rfl
@[simp] theorem State.zeroSponge_buf : (s.zeroSponge).buf = s.buf := rfl
@[simp] theorem State.zeroSponge_cfg : (s.zeroSponge).cfg = s.cfg := rfl
@[simp] theorem State.zeroSponge_resets : (s.zeroSponge).resets = s.resets := rfl
@[simp] theorem State.zeroSponge_schedule : (s.zeroSponge).schedule = s.schedule := rfl
@[simp] theorem State.zeroSponge_host : (s.zeroSponge).host = s.host := rfl
end

section
variable (s : State) (a : Nat) (v : List Byte)
@[simp] theorem State.memWrite_sponge : (s.memWrite a v).sponge = s.sponge := rfl
@[simp] theorem State.memWrite_key0 : (s.memWrite a v).key0 = s.key0 := rfl
@[simp] theorem State.memWrite_key1 : (s.memWrite a v).key1 = s.key1 := rfl
@[simp] theorem State.memWrite_nonce0 : (s.memWrite a v).nonce0 = s.nonce0 := rfl
@[simp] theorem State.memWrite_nonce1 : (s.memWrite a v).nonce1 = s.nonce1 := rfl
@[simp] theorem State.memWrite_auxPtr : (s.memWrite a v).auxPtr = s.auxPtr := rfl
@[simp] theorem State.memWrite_auxLen : (s.memWrite a v).auxLen = s.auxLen := rfl
@[simp] theorem State.memWrite_inPtr : (s.memWrite a v).inPtr = s.inPtr := rfl
@[simp] theorem State.memWrite_inLen : (s.memWrite a v).inLen = s.inLen := rfl
@[simp] theorem State.memWrite_outPtr : (s.memWrite a v).outPtr = s.outPtr := rfl
@[simp] theorem State.memWrite_outLen : (s.memWrite a v).outLen = s.outLen := rfl
@[simp] theorem State.memWrite_ie : (s.memWrite a v).ie = s.ie := rfl
@[simp] theorem State.memWrite_done : (s.memWrite a v).done = s.done := rfl
@[simp] theorem State.memWrite_werr : (s.memWrite a v).werr = s.werr := rfl
@[simp] theorem State.memWrite_err : (s.memWrite a v).err = s.err := rfl
@[simp] theorem State.memWrite_authok : (s.memWrite a v).authok = s.authok := rfl
@[simp] theorem State.memWrite_cmdReg : (s.memWrite a v).cmdReg = s.cmdReg := rfl
@[simp] theorem State.memWrite_pending : (s.memWrite a v).pending = s.pending := rfl
@[simp] theorem State.memWrite_buf : (s.memWrite a v).buf = s.buf.store a v := rfl
@[simp] theorem State.memWrite_cfg : (s.memWrite a v).cfg = s.cfg := rfl
@[simp] theorem State.memWrite_resets : (s.memWrite a v).resets = s.resets := rfl
@[simp] theorem State.memWrite_schedule : (s.memWrite a v).schedule = s.schedule := rfl
@[simp] theorem State.memWrite_host : (s.memWrite a v).host = s.host := rfl
end

section
variable (s : State) (e : ErrCode) (auth : Bool)
@[simp] theorem State.complete_sponge : (s.complete e auth).sponge = s.sponge := rfl
@[simp] theorem State.complete_key0 : (s.complete e auth).key0 = s.key0 := rfl
@[simp] theorem State.complete_key1 : (s.complete e auth).key1 = s.key1 := rfl
@[simp] theorem State.complete_nonce0 : (s.complete e auth).nonce0 = s.nonce0 := rfl
@[simp] theorem State.complete_nonce1 : (s.complete e auth).nonce1 = s.nonce1 := rfl
@[simp] theorem State.complete_auxPtr : (s.complete e auth).auxPtr = s.auxPtr := rfl
@[simp] theorem State.complete_auxLen : (s.complete e auth).auxLen = s.auxLen := rfl
@[simp] theorem State.complete_inPtr : (s.complete e auth).inPtr = s.inPtr := rfl
@[simp] theorem State.complete_inLen : (s.complete e auth).inLen = s.inLen := rfl
@[simp] theorem State.complete_outPtr : (s.complete e auth).outPtr = s.outPtr := rfl
@[simp] theorem State.complete_outLen : (s.complete e auth).outLen = s.outLen := rfl
@[simp] theorem State.complete_ie : (s.complete e auth).ie = s.ie := rfl
@[simp] theorem State.complete_done : (s.complete e auth).done = true := rfl
@[simp] theorem State.complete_werr : (s.complete e auth).werr = s.werr := rfl
@[simp] theorem State.complete_err : (s.complete e auth).err = e := rfl
@[simp] theorem State.complete_authok : (s.complete e auth).authok = auth := rfl
@[simp] theorem State.complete_cmdReg : (s.complete e auth).cmdReg = s.cmdReg := rfl
@[simp] theorem State.complete_pending : (s.complete e auth).pending = none := rfl
@[simp] theorem State.complete_buf : (s.complete e auth).buf = s.buf := rfl
@[simp] theorem State.complete_cfg : (s.complete e auth).cfg = s.cfg := rfl
@[simp] theorem State.complete_resets : (s.complete e auth).resets = s.resets := rfl
@[simp] theorem State.complete_schedule : (s.complete e auth).schedule = s.schedule := rfl
@[simp] theorem State.complete_host : (s.complete e auth).host = s.host := rfl
end

section
variable (s : State) (w : Word)
@[simp] theorem State.issue_sponge : (s.issue w).sponge = s.sponge := rfl
@[simp] theorem State.issue_key0 : (s.issue w).key0 = s.key0 := rfl
@[simp] theorem State.issue_key1 : (s.issue w).key1 = s.key1 := rfl
@[simp] theorem State.issue_nonce0 : (s.issue w).nonce0 = s.nonce0 := rfl
@[simp] theorem State.issue_nonce1 : (s.issue w).nonce1 = s.nonce1 := rfl
@[simp] theorem State.issue_auxPtr : (s.issue w).auxPtr = s.auxPtr := rfl
@[simp] theorem State.issue_auxLen : (s.issue w).auxLen = s.auxLen := rfl
@[simp] theorem State.issue_inPtr : (s.issue w).inPtr = s.inPtr := rfl
@[simp] theorem State.issue_inLen : (s.issue w).inLen = s.inLen := rfl
@[simp] theorem State.issue_outPtr : (s.issue w).outPtr = s.outPtr := rfl
@[simp] theorem State.issue_outLen : (s.issue w).outLen = s.outLen := rfl
@[simp] theorem State.issue_ie : (s.issue w).ie = s.ie := rfl
@[simp] theorem State.issue_done : (s.issue w).done = false := rfl
@[simp] theorem State.issue_werr : (s.issue w).werr = s.werr := rfl
@[simp] theorem State.issue_err : (s.issue w).err = .ok := rfl
@[simp] theorem State.issue_authok : (s.issue w).authok = false := rfl
@[simp] theorem State.issue_cmdReg : (s.issue w).cmdReg = w := rfl
@[simp] theorem State.issue_pending : (s.issue w).pending = some w := rfl
@[simp] theorem State.issue_buf : (s.issue w).buf = s.buf := rfl
@[simp] theorem State.issue_cfg : (s.issue w).cfg = s.cfg := rfl
@[simp] theorem State.issue_resets : (s.issue w).resets = s.resets := rfl
@[simp] theorem State.issue_schedule : (s.issue w).schedule = s.schedule := rfl
@[simp] theorem State.issue_host : (s.issue w).host = s.host := rfl
end

section
variable (s : State)
@[simp] theorem State.setWerr_sponge : (s.setWerr).sponge = s.sponge := rfl
@[simp] theorem State.setWerr_key0 : (s.setWerr).key0 = s.key0 := rfl
@[simp] theorem State.setWerr_key1 : (s.setWerr).key1 = s.key1 := rfl
@[simp] theorem State.setWerr_nonce0 : (s.setWerr).nonce0 = s.nonce0 := rfl
@[simp] theorem State.setWerr_nonce1 : (s.setWerr).nonce1 = s.nonce1 := rfl
@[simp] theorem State.setWerr_auxPtr : (s.setWerr).auxPtr = s.auxPtr := rfl
@[simp] theorem State.setWerr_auxLen : (s.setWerr).auxLen = s.auxLen := rfl
@[simp] theorem State.setWerr_inPtr : (s.setWerr).inPtr = s.inPtr := rfl
@[simp] theorem State.setWerr_inLen : (s.setWerr).inLen = s.inLen := rfl
@[simp] theorem State.setWerr_outPtr : (s.setWerr).outPtr = s.outPtr := rfl
@[simp] theorem State.setWerr_outLen : (s.setWerr).outLen = s.outLen := rfl
@[simp] theorem State.setWerr_ie : (s.setWerr).ie = s.ie := rfl
@[simp] theorem State.setWerr_done : (s.setWerr).done = s.done := rfl
@[simp] theorem State.setWerr_werr : (s.setWerr).werr = true := rfl
@[simp] theorem State.setWerr_err : (s.setWerr).err = s.err := rfl
@[simp] theorem State.setWerr_authok : (s.setWerr).authok = s.authok := rfl
@[simp] theorem State.setWerr_cmdReg : (s.setWerr).cmdReg = s.cmdReg := rfl
@[simp] theorem State.setWerr_pending : (s.setWerr).pending = s.pending := rfl
@[simp] theorem State.setWerr_buf : (s.setWerr).buf = s.buf := rfl
@[simp] theorem State.setWerr_cfg : (s.setWerr).cfg = s.cfg := rfl
@[simp] theorem State.setWerr_resets : (s.setWerr).resets = s.resets := rfl
@[simp] theorem State.setWerr_schedule : (s.setWerr).schedule = s.schedule := rfl
@[simp] theorem State.setWerr_host : (s.setWerr).host = s.host := rfl
end

section
variable (s : State) (d : Word)
@[simp] theorem State.writeStatus_sponge : (s.writeStatus d).sponge = s.sponge := rfl
@[simp] theorem State.writeStatus_key0 : (s.writeStatus d).key0 = s.key0 := rfl
@[simp] theorem State.writeStatus_key1 : (s.writeStatus d).key1 = s.key1 := rfl
@[simp] theorem State.writeStatus_nonce0 : (s.writeStatus d).nonce0 = s.nonce0 := rfl
@[simp] theorem State.writeStatus_nonce1 : (s.writeStatus d).nonce1 = s.nonce1 := rfl
@[simp] theorem State.writeStatus_auxPtr : (s.writeStatus d).auxPtr = s.auxPtr := rfl
@[simp] theorem State.writeStatus_auxLen : (s.writeStatus d).auxLen = s.auxLen := rfl
@[simp] theorem State.writeStatus_inPtr : (s.writeStatus d).inPtr = s.inPtr := rfl
@[simp] theorem State.writeStatus_inLen : (s.writeStatus d).inLen = s.inLen := rfl
@[simp] theorem State.writeStatus_outPtr : (s.writeStatus d).outPtr = s.outPtr := rfl
@[simp] theorem State.writeStatus_outLen : (s.writeStatus d).outLen = s.outLen := rfl
@[simp] theorem State.writeStatus_ie : (s.writeStatus d).ie = s.ie := rfl
@[simp] theorem State.writeStatus_done : (s.writeStatus d).done = (s.done && !d.getLsbD 1) := rfl
@[simp] theorem State.writeStatus_werr : (s.writeStatus d).werr = (s.werr && !d.getLsbD 2) := rfl
@[simp] theorem State.writeStatus_err : (s.writeStatus d).err = s.err := rfl
@[simp] theorem State.writeStatus_authok : (s.writeStatus d).authok = s.authok := rfl
@[simp] theorem State.writeStatus_cmdReg : (s.writeStatus d).cmdReg = s.cmdReg := rfl
@[simp] theorem State.writeStatus_pending : (s.writeStatus d).pending = s.pending := rfl
@[simp] theorem State.writeStatus_buf : (s.writeStatus d).buf = s.buf := rfl
@[simp] theorem State.writeStatus_cfg : (s.writeStatus d).cfg = s.cfg := rfl
@[simp] theorem State.writeStatus_resets : (s.writeStatus d).resets = s.resets := rfl
@[simp] theorem State.writeStatus_schedule : (s.writeStatus d).schedule = s.schedule := rfl
@[simp] theorem State.writeStatus_host : (s.writeStatus d).host = s.host := rfl
end

section
variable (s : State)
@[simp] theorem State.popTurn_sponge : (s.popTurn).sponge = s.sponge := rfl
@[simp] theorem State.popTurn_key0 : (s.popTurn).key0 = s.key0 := rfl
@[simp] theorem State.popTurn_key1 : (s.popTurn).key1 = s.key1 := rfl
@[simp] theorem State.popTurn_nonce0 : (s.popTurn).nonce0 = s.nonce0 := rfl
@[simp] theorem State.popTurn_nonce1 : (s.popTurn).nonce1 = s.nonce1 := rfl
@[simp] theorem State.popTurn_auxPtr : (s.popTurn).auxPtr = s.auxPtr := rfl
@[simp] theorem State.popTurn_auxLen : (s.popTurn).auxLen = s.auxLen := rfl
@[simp] theorem State.popTurn_inPtr : (s.popTurn).inPtr = s.inPtr := rfl
@[simp] theorem State.popTurn_inLen : (s.popTurn).inLen = s.inLen := rfl
@[simp] theorem State.popTurn_outPtr : (s.popTurn).outPtr = s.outPtr := rfl
@[simp] theorem State.popTurn_outLen : (s.popTurn).outLen = s.outLen := rfl
@[simp] theorem State.popTurn_ie : (s.popTurn).ie = s.ie := rfl
@[simp] theorem State.popTurn_done : (s.popTurn).done = s.done := rfl
@[simp] theorem State.popTurn_werr : (s.popTurn).werr = s.werr := rfl
@[simp] theorem State.popTurn_err : (s.popTurn).err = s.err := rfl
@[simp] theorem State.popTurn_authok : (s.popTurn).authok = s.authok := rfl
@[simp] theorem State.popTurn_cmdReg : (s.popTurn).cmdReg = s.cmdReg := rfl
@[simp] theorem State.popTurn_pending : (s.popTurn).pending = s.pending := rfl
@[simp] theorem State.popTurn_buf : (s.popTurn).buf = s.buf := rfl
@[simp] theorem State.popTurn_cfg : (s.popTurn).cfg = s.cfg := rfl
@[simp] theorem State.popTurn_resets : (s.popTurn).resets = s.resets := rfl
@[simp] theorem State.popTurn_schedule : (s.popTurn).schedule = s.schedule.tail := rfl
@[simp] theorem State.popTurn_host : (s.popTurn).host = s.host := rfl
end

section
variable (s : State)
@[simp] theorem State.coreNext_sponge : (s.coreNext).sponge = s.sponge := rfl
@[simp] theorem State.coreNext_key0 : (s.coreNext).key0 = s.key0 := rfl
@[simp] theorem State.coreNext_key1 : (s.coreNext).key1 = s.key1 := rfl
@[simp] theorem State.coreNext_nonce0 : (s.coreNext).nonce0 = s.nonce0 := rfl
@[simp] theorem State.coreNext_nonce1 : (s.coreNext).nonce1 = s.nonce1 := rfl
@[simp] theorem State.coreNext_auxPtr : (s.coreNext).auxPtr = s.auxPtr := rfl
@[simp] theorem State.coreNext_auxLen : (s.coreNext).auxLen = s.auxLen := rfl
@[simp] theorem State.coreNext_inPtr : (s.coreNext).inPtr = s.inPtr := rfl
@[simp] theorem State.coreNext_inLen : (s.coreNext).inLen = s.inLen := rfl
@[simp] theorem State.coreNext_outPtr : (s.coreNext).outPtr = s.outPtr := rfl
@[simp] theorem State.coreNext_outLen : (s.coreNext).outLen = s.outLen := rfl
@[simp] theorem State.coreNext_ie : (s.coreNext).ie = s.ie := rfl
@[simp] theorem State.coreNext_done : (s.coreNext).done = s.done := rfl
@[simp] theorem State.coreNext_werr : (s.coreNext).werr = s.werr := rfl
@[simp] theorem State.coreNext_err : (s.coreNext).err = s.err := rfl
@[simp] theorem State.coreNext_authok : (s.coreNext).authok = s.authok := rfl
@[simp] theorem State.coreNext_cmdReg : (s.coreNext).cmdReg = s.cmdReg := rfl
@[simp] theorem State.coreNext_pending : (s.coreNext).pending = s.pending := rfl
@[simp] theorem State.coreNext_buf : (s.coreNext).buf = s.buf := rfl
@[simp] theorem State.coreNext_cfg : (s.coreNext).cfg = s.cfg := rfl
@[simp] theorem State.coreNext_resets : (s.coreNext).resets = s.resets := rfl
@[simp] theorem State.coreNext_schedule : (s.coreNext).schedule = (.core :: s.schedule) := rfl
@[simp] theorem State.coreNext_host : (s.coreNext).host = s.host := rfl
end

section
variable (s : State) (r : Reply) (p : Nat)
@[simp] theorem State.hostGoes_sponge : (s.hostGoes r p).sponge = s.sponge := rfl
@[simp] theorem State.hostGoes_key0 : (s.hostGoes r p).key0 = s.key0 := rfl
@[simp] theorem State.hostGoes_key1 : (s.hostGoes r p).key1 = s.key1 := rfl
@[simp] theorem State.hostGoes_nonce0 : (s.hostGoes r p).nonce0 = s.nonce0 := rfl
@[simp] theorem State.hostGoes_nonce1 : (s.hostGoes r p).nonce1 = s.nonce1 := rfl
@[simp] theorem State.hostGoes_auxPtr : (s.hostGoes r p).auxPtr = s.auxPtr := rfl
@[simp] theorem State.hostGoes_auxLen : (s.hostGoes r p).auxLen = s.auxLen := rfl
@[simp] theorem State.hostGoes_inPtr : (s.hostGoes r p).inPtr = s.inPtr := rfl
@[simp] theorem State.hostGoes_inLen : (s.hostGoes r p).inLen = s.inLen := rfl
@[simp] theorem State.hostGoes_outPtr : (s.hostGoes r p).outPtr = s.outPtr := rfl
@[simp] theorem State.hostGoes_outLen : (s.hostGoes r p).outLen = s.outLen := rfl
@[simp] theorem State.hostGoes_ie : (s.hostGoes r p).ie = s.ie := rfl
@[simp] theorem State.hostGoes_done : (s.hostGoes r p).done = s.done := rfl
@[simp] theorem State.hostGoes_werr : (s.hostGoes r p).werr = s.werr := rfl
@[simp] theorem State.hostGoes_err : (s.hostGoes r p).err = s.err := rfl
@[simp] theorem State.hostGoes_authok : (s.hostGoes r p).authok = s.authok := rfl
@[simp] theorem State.hostGoes_cmdReg : (s.hostGoes r p).cmdReg = s.cmdReg := rfl
@[simp] theorem State.hostGoes_pending : (s.hostGoes r p).pending = s.pending := rfl
@[simp] theorem State.hostGoes_buf : (s.hostGoes r p).buf = s.buf := rfl
@[simp] theorem State.hostGoes_cfg : (s.hostGoes r p).cfg = s.cfg := rfl
@[simp] theorem State.hostGoes_resets : (s.hostGoes r p).resets = s.resets := rfl
@[simp] theorem State.hostGoes_schedule : (s.hostGoes r p).schedule = s.schedule := rfl
@[simp] theorem State.hostGoes_host : (s.hostGoes r p).host = { s.host with pos := p, log := s.host.log ++ [r] } := rfl
end

section
variable (s : State) (auth : Bool) (y : List Byte)
@[simp] theorem State.finishFace_sponge : (s.finishFace auth y).sponge = Sponge.zero := rfl
@[simp] theorem State.finishFace_key0 : (s.finishFace auth y).key0 = s.key0 := rfl
@[simp] theorem State.finishFace_key1 : (s.finishFace auth y).key1 = s.key1 := rfl
@[simp] theorem State.finishFace_nonce0 : (s.finishFace auth y).nonce0 = s.nonce0 := rfl
@[simp] theorem State.finishFace_nonce1 : (s.finishFace auth y).nonce1 = s.nonce1 := rfl
@[simp] theorem State.finishFace_auxPtr : (s.finishFace auth y).auxPtr = s.auxPtr := rfl
@[simp] theorem State.finishFace_auxLen : (s.finishFace auth y).auxLen = s.auxLen := rfl
@[simp] theorem State.finishFace_inPtr : (s.finishFace auth y).inPtr = s.inPtr := rfl
@[simp] theorem State.finishFace_inLen : (s.finishFace auth y).inLen = s.inLen := rfl
@[simp] theorem State.finishFace_outPtr : (s.finishFace auth y).outPtr = s.outPtr := rfl
@[simp] theorem State.finishFace_outLen : (s.finishFace auth y).outLen = s.outLen := rfl
@[simp] theorem State.finishFace_ie : (s.finishFace auth y).ie = s.ie := rfl
@[simp] theorem State.finishFace_done : (s.finishFace auth y).done = true := rfl
@[simp] theorem State.finishFace_werr : (s.finishFace auth y).werr = s.werr := rfl
@[simp] theorem State.finishFace_err : (s.finishFace auth y).err = .ok := rfl
@[simp] theorem State.finishFace_authok : (s.finishFace auth y).authok = auth := rfl
@[simp] theorem State.finishFace_cmdReg : (s.finishFace auth y).cmdReg = s.cmdReg := rfl
@[simp] theorem State.finishFace_pending : (s.finishFace auth y).pending = none := rfl
@[simp] theorem State.finishFace_buf : (s.finishFace auth y).buf = s.buf.store s.outPtr.toNat y := rfl
@[simp] theorem State.finishFace_cfg : (s.finishFace auth y).cfg = s.cfg := rfl
@[simp] theorem State.finishFace_resets : (s.finishFace auth y).resets = s.resets := rfl
@[simp] theorem State.finishFace_schedule : (s.finishFace auth y).schedule = s.schedule := rfl
@[simp] theorem State.finishFace_host : (s.finishFace auth y).host = s.host := rfl
end

section
variable (s : State)
@[simp] theorem resetTurn_cfg : (resetTurn s).cfg = s.cfg := rfl
@[simp] theorem resetTurn_resets : (resetTurn s).resets = s.resets + 1 := rfl
@[simp] theorem resetTurn_schedule : (resetTurn s).schedule = s.schedule := rfl
@[simp] theorem resetTurn_host : (resetTurn s).host = s.host := rfl
@[simp] theorem resetTurn_buf : (resetTurn s).buf = [] := rfl
@[simp] theorem resetTurn_pending : (resetTurn s).pending = none := rfl
@[simp] theorem State.busy_complete (e : ErrCode) (auth : Bool) : (s.complete e auth).busy = false := rfl
@[simp] theorem State.busy_issue (w : Word) : (s.issue w).busy = true := rfl
@[simp] theorem State.busy_withSponge (x : Sponge) : (s.withSponge x).busy = s.busy := rfl
@[simp] theorem State.busy_memWrite (a : Nat) (v : List Byte) : (s.memWrite a v).busy = s.busy := rfl
@[simp] theorem State.busy_setWerr : s.setWerr.busy = s.busy := rfl
@[simp] theorem State.busy_popTurn : s.popTurn.busy = s.busy := rfl
@[simp] theorem State.busy_finishFace (auth : Bool) (y : List Byte) : (s.finishFace auth y).busy = false := rfl
@[simp] theorem State.fail_eq (e : ErrCode) : s.fail e = .next (s.complete e false) := rfl
@[simp] theorem State.coreNext_popTurn : s.coreNext.popTurn = s := rfl
end

end Sys2Proof.Machine
end

