-- ==== Sys2Proof/Laws/Bytes.lean ====
section
/-! SUPPORT. Laws of the converters, of blocks and of padding (spec/20_memory.md R68 to R71, spec/41_sponge.md
R141, R145). -/

namespace Sys2Proof.Machine

@[simp] theorem bytes8_length (w : Word) : (bytes8 w).length = 8 := rfl

@[simp] theorem zeroBytes_length (k : Nat) : (zeroBytes k).length = k := by simp [zeroBytes]

@[simp] theorem blocks_length (r k : Nat) (x : List Byte) : (blocks r k x).length = k := by
  induction k generalizing x with
  | zero => rfl
  | succ k ih => simp [blocks, ih]

/-- The first `k` blocks, joined, are the first `r * k` bytes. -/
theorem blocks_flatten (r k : Nat) (x : List Byte) (h : r * k ≤ x.length) :
    (blocks r k x).flatten = x.take (r * k) := by
  induction k generalizing x with
  | zero => simp [blocks]
  | succ k ih =>
    have hk : r * (k + 1) = r + r * k := by ring
    rw [blocks, List.flatten_cons, ih (x.drop r) (by simp; omega), hk, List.take_add]

/-- Every block of a sequence that is long enough has `r` bytes. -/
theorem blocks_block_length (r k : Nat) (x : List Byte) (h : r * k ≤ x.length) :
    ∀ b ∈ blocks r k x, b.length = r := by
  induction k generalizing x with
  | zero => simp [blocks]
  | succ k ih =>
    have hk : r * (k + 1) = r + r * k := by ring
    intro b hb
    rcases List.mem_cons.mp hb with rfl | hb
    · simp; omega
    · exact ih (x.drop r) (by simp; omega) b hb

@[simp] theorem blockWords_length (x : List Byte) : (blockWords x).length = x.length / 8 := by
  simp [blockWords]

theorem le64_cons (b : Byte) (bs : List Byte) : le64 (b :: bs) = b.zeroExtend 64 ||| (le64 bs <<< 8) := rfl

@[simp] theorem memRead_length (s : State) (a n : Nat) : (s.memRead a n).length = n := by
  induction n generalizing a with
  | zero => rfl
  | succ n ih => simp [State.memRead, ih]

@[simp] theorem readBytes_nil (m : Nat) : readBytes m [] = [] := by simp [readBytes]

/-- The bytes of a read come before those of the replies after it (spec/30_encoding.md R108). -/
theorem readBytes_read (m : Nat) (w : Word) (r : Resp) (l : List Reply) :
    readBytes m (.read w r :: l) = (bytes8 w ++ (l.filterMap Reply.word?).flatMap bytes8).take m := by
  simp [readBytes, Reply.word?]

/-- One write per word (spec/30_encoding.md R108). -/
theorem wrWords_length (k : Nat) (ws : List Word) : (wrWords k ws).length = ws.length := by
  induction ws generalizing k with
  | nil => rfl
  | cons w ws ih => simp [wrWords, ih]

/-- One read per word (spec/30_encoding.md R108). -/
theorem rdWords_length (k n : Nat) : (rdWords k n).length = n := by
  induction n generalizing k with
  | zero => rfl
  | succ n ih => simp [rdWords, ih]

end Sys2Proof.Machine
end

