-- ==== Sys2Proof/Laws/Memory.lean ====
section
/-! SUPPORT. Laws of the byte buffer (spec/20_memory.md R64, R67): every operation keeps the canonical form, a
read after a write gives the byte written, and a write leaves every other byte alone. -/

namespace Sys2Proof.Machine

theorem mem_cellsFrom {a : Nat} {v : List Byte} {c : Host.Cell} (h : c ∈ cellsFrom a v) :
    a ≤ c.1 ∧ c.1 < a + v.length := by
  induction v generalizing a with
  | nil => simp [cellsFrom] at h
  | cons b bs ih =>
    rcases List.mem_cons.mp h with rfl | h
    · simp
    · have := ih h
      simp only [List.length_cons]
      omega

theorem cellsFrom_wf (a : Nat) (v : List Byte) : Memory.wf (cellsFrom a v) := by
  induction v generalizing a with
  | nil => exact List.Pairwise.nil
  | cons b bs ih =>
    exact List.Pairwise.cons (fun c hc => by have := mem_cellsFrom hc; show a < c.1; omega) (ih (a + 1))

/-- A store keeps the canonical form. -/
theorem store_wf {m : Memory} (h : m.wf) (a : Nat) (v : List Byte) : (m.store a v).wf := by
  unfold Memory.store Memory.wf
  rw [List.pairwise_append, List.pairwise_append]
  refine ⟨⟨h.filter _, cellsFrom_wf a v, ?_⟩, h.filter _, ?_⟩
  · intro c hc d hd
    have h1 := (List.mem_filter.mp hc).2
    have h2 := mem_cellsFrom hd
    simp at h1
    omega
  · intro c hc d hd
    have h1 := (List.mem_filter.mp hd).2
    simp at h1
    rcases List.mem_append.mp hc with hc | hc
    · have h2 := (List.mem_filter.mp hc).2
      simp at h2
      omega
    · have h2 := mem_cellsFrom hc
      omega

/-- A store within the buffer lists no byte outside it. -/
theorem store_below {m : Memory} {n : Nat} (h : m.below n) (a : Nat) (v : List Byte) (hv : a + v.length ≤ n) :
    (m.store a v).below n := by
  intro c hc
  rcases List.mem_append.mp hc with hc | hc
  · rcases List.mem_append.mp hc with hc | hc
    · exact h c (List.mem_filter.mp hc).1
    · have := mem_cellsFrom hc
      omega
  · exact h c (List.mem_filter.mp hc).1

theorem lookup_none_of_forall {m : Memory} {a : Nat} (h : ∀ c ∈ m, c.1 ≠ a) : List.lookup a m = none := by
  induction m with
  | nil => rfl
  | cons c m ih =>
    have hc : (a == c.1) = false := by simpa using fun e => h c (List.mem_cons_self ..) e.symm
    rw [show c = (c.1, c.2) from rfl, List.lookup_cons, hc]
    exact ih (fun d hd => h d (List.mem_cons_of_mem _ hd))

theorem lookup_filter_of_keeps {m : Memory} {a : Nat} (p : Host.Cell → Bool) (h : ∀ c ∈ m, c.1 = a → p c = true) :
    List.lookup a (m.filter p) = List.lookup a m := by
  induction m with
  | nil => rfl
  | cons c m ih =>
    have ih := ih (fun d hd => h d (List.mem_cons_of_mem _ hd))
    by_cases hc : c.1 = a
    · rw [List.filter_cons_of_pos (h c (List.mem_cons_self ..) hc)]
      rw [show c = (c.1, c.2) from rfl, List.lookup_cons, List.lookup_cons, show (a == c.1) = true by simp [hc]]
    · have hb : (a == c.1) = false := by simpa using fun e => hc e.symm
      by_cases hp : p c = true
      · rw [List.filter_cons_of_pos hp, show c = (c.1, c.2) from rfl, List.lookup_cons, List.lookup_cons, hb]
        exact ih
      · rw [List.filter_cons_of_neg hp, ih, show c = (c.1, c.2) from rfl, List.lookup_cons, hb]

theorem lookup_cellsFrom {a b : Nat} {v : List Byte} (h1 : a ≤ b) (h2 : b < a + v.length) :
    List.lookup b (cellsFrom a v) = v[b - a]? := by
  induction v generalizing a with
  | nil => simp at h2; omega
  | cons x xs ih =>
    rw [cellsFrom, List.lookup_cons]
    by_cases hb : b = a
    · subst hb
      simp
    · rw [show (b == a) = false by simpa using hb, ih (by omega) (by simp at h2; omega)]
      rw [show b - a = (b - (a + 1)) + 1 by omega, List.getElem?_cons_succ]

/-- A byte the store covers reads as stored. -/
theorem byte?_store_inside (m : Memory) {a b : Nat} {v : List Byte} (h1 : a ≤ b) (h2 : b < a + v.length) :
    (m.store a v).byte? b = v[b - a]? := by
  unfold Memory.byte? Memory.store
  rw [List.lookup_append, List.lookup_append, lookup_cellsFrom h1 h2, lookup_none_of_forall
    (m := m.filter fun c => decide (c.1 < a)) (fun c hc => by
      have := (List.mem_filter.mp hc).2
      simp at this
      omega)]
  rw [List.getElem?_eq_getElem (by omega)]
  simp

/-- A byte the store does not cover reads as before. -/
theorem byte?_store_outside (m : Memory) {a b : Nat} {v : List Byte} (h : b < a ∨ a + v.length ≤ b) :
    (m.store a v).byte? b = m.byte? b := by
  unfold Memory.byte? Memory.store
  rw [List.lookup_append, List.lookup_append, lookup_none_of_forall (m := cellsFrom a v) (fun c hc => by
    have := mem_cellsFrom hc
    omega)]
  rcases h with h | h
  · rw [lookup_filter_of_keeps (fun c => decide (c.1 < a)) (fun c _ hc => by simp; omega),
      lookup_none_of_forall (m := m.filter fun c => decide (a + v.length ≤ c.1)) (fun c hc => by
        have := (List.mem_filter.mp hc).2
        simp at this
        omega)]
    simp
  · rw [lookup_filter_of_keeps (fun c => decide (a + v.length ≤ c.1)) (fun c _ hc => by simp; omega),
      lookup_none_of_forall (m := m.filter fun c => decide (c.1 < a)) (fun c hc => by
        have := (List.mem_filter.mp hc).2
        simp at this
        omega)]
    simp

/-- Bytes read alike in states with one buffer and one draw. -/
theorem byteAt_congr {s t : State} (hb : t.buf = s.buf) (hr : t.resets = s.resets) (a : Nat) :
    t.byteAt a = s.byteAt a := by
  simp [State.byteAt, hb, hr]

/-- MemWrite leaves every byte outside its run alone. -/
theorem byteAt_memWrite_outside (s : State) {a b : Nat} {v : List Byte} (h : b < a ∨ a + v.length ≤ b) :
    (s.memWrite a v).byteAt b = s.byteAt b := by
  simp [State.byteAt, byte?_store_outside s.buf h]

/-- A byte MemWrite stores reads as stored. -/
theorem byteAt_memWrite_inside (s : State) {a i : Nat} {v : List Byte} (h : i < v.length) :
    (s.memWrite a v).byteAt (a + i) = v[i] := by
  have := byte?_store_inside s.buf (a := a) (b := a + i) (v := v) (by omega) (by omega)
  simp [State.byteAt, this, List.getElem?_eq_getElem h]

theorem memRead_getElem (s : State) (a n i : Nat) (h : i < (s.memRead a n).length) :
    (s.memRead a n)[i] = s.byteAt (a + i) := by
  induction n generalizing a i with
  | zero => simp [State.memRead] at h
  | succ n ih =>
    cases i with
    | zero => simp [State.memRead]
    | succ i =>
      simp only [State.memRead, List.getElem_cons_succ]
      rw [ih]
      congr 1
      omega

/-- Runs that agree byte for byte read alike. -/
theorem memRead_congr {s t : State} {a n : Nat} (h : ∀ i, i < n → t.byteAt (a + i) = s.byteAt (a + i)) :
    t.memRead a n = s.memRead a n := by
  apply List.ext_getElem (by simp)
  intro i h1 h2
  rw [memRead_getElem, memRead_getElem]
  exact h i (by simpa using h1)

/-- A run read splits where one likes. -/
theorem memRead_add (s : State) (a m n : Nat) : s.memRead a (m + n) = s.memRead a m ++ s.memRead (a + m) n := by
  induction m generalizing a with
  | zero => simp [State.memRead]
  | succ m ih =>
    rw [show m + 1 + n = (m + n) + 1 by omega]
    simp only [State.memRead, List.cons_append]
    rw [ih, show a + 1 + m = a + (m + 1) by omega]

/-- MemRead after MemWrite of the same run. -/
theorem memRead_memWrite (s : State) (a : Nat) (v : List Byte) : (s.memWrite a v).memRead a v.length = v := by
  apply List.ext_getElem (by simp)
  intro i h1 h2
  rw [memRead_getElem]
  exact byteAt_memWrite_inside s h2

end Sys2Proof.Machine
end

