-- ==== Sys2Proof/Laws/Commands.lean ====
section
/-! SUPPORT. What each shared operation of the commands can do, said once: the checks, the two ends of a command,
the lengths of the outputs, and one inversion lemma for exec. -/

namespace Sys2Proof.Machine

/-- The region checks as arithmetic. -/
theorem regionsOk_iff (s : State) (aux : Bool) : s.regionsOk aux = true ↔ RegionsFit aux s := by
  simp only [State.regionsOk, Region.inBuffer, Region.overlaps, Bool.and_eq_true, Bool.or_eq_true, Bool.not_eq_true',
    Bool.and_eq_false_iff, decide_eq_true_eq, decide_eq_false_iff_not, RegionsFit, Overlap]
  simp only [State.auxRegion, State.inRegion, State.outRegion]
  cases aux <;> simp only [reduceCtorEq, false_implies, true_implies, true_or, false_or, true_and] <;> tauto

/-- The answer of `checked`, by the first check that fails (spec/60_exceptions.md R242). -/
theorem checked_param (s : State) (aux : Bool) (f : State → Result) :
    s.checked false aux f = .next (s.complete .invalidParam false) := rfl

theorem checked_range (s : State) (aux : Bool) (f : State → Result) (h : ¬RegionsFit aux s) :
    s.checked true aux f = .next (s.complete .range false) := by
  have hf : s.regionsOk aux = false := by
    rw [Bool.eq_false_iff]
    exact fun hc => h ((regionsOk_iff s aux).mp hc)
  simp [State.checked, hf]

theorem checked_body (s : State) (aux : Bool) (f : State → Result) (h : RegionsFit aux s) :
    s.checked true aux f = f s := by
  simp [State.checked, (regionsOk_iff s aux).mpr h]

/-- `checked` answers one of three ways. -/
theorem checked_cases (s : State) (p aux : Bool) (f : State → Result) :
    s.checked p aux f = .next (s.complete .invalidParam false) ∨
      (p = true ∧ ¬RegionsFit aux s ∧ s.checked p aux f = .next (s.complete .range false)) ∨
      (p = true ∧ RegionsFit aux s ∧ s.checked p aux f = f s) := by
  cases p with
  | false => exact .inl rfl
  | true =>
    by_cases h : RegionsFit aux s
    · exact .inr (.inr ⟨rfl, h, checked_body s aux f h⟩)
    · exact .inr (.inl ⟨rfl, h, checked_range s aux f h⟩)

/-- A completion changes STATUS only. -/
theorem complete_rest (s : State) (e : ErrCode) (auth : Bool) : KeepsRest s (s.complete e auth) := by
  constructor <;> rfl

theorem complete_onlyStatus (s : State) (e : ErrCode) : OnlyStatus s (s.complete e false) e where
  sponge := rfl
  keys := ⟨rfl, rfl, rfl, rfl⟩
  rest := complete_rest s e false
  bytes := fun _ => rfl
  status := ⟨rfl, rfl, rfl, rfl⟩

/-- The end of a face command with an output of OUT_LEN bytes. -/
theorem finishFace_done (s : State) (auth : Bool) (y : List Byte) (h : y.length = s.outLen.toNat) :
    FaceDone s (s.finishFace auth y) auth y where
  sponge := rfl
  length := h
  output := by
    have := memRead_memWrite s s.outPtr.toNat y
    rw [h] at this
    exact (memRead_congr (s := s.memWrite s.outPtr.toNat y) (t := s.finishFace auth y) fun i _ =>
      byteAt_congr rfl rfl _).trans this
  outside := fun b hb => by
    rw [← h] at hb
    exact (byteAt_congr (s := s.memWrite s.outPtr.toNat y) rfl rfl b).trans (byteAt_memWrite_outside s hb)
  keys := ⟨rfl, rfl, rfl, rfl⟩
  rest := by constructor <;> rfl
  status := ⟨rfl, rfl, rfl, rfl⟩

/-! XorBlock of a block of one, two and four words (spec/41_sponge.md R150), the words written out. -/

theorem xorBlock_one (s : Sponge) (b : List Byte) (h : b.length = 8) : xorBlock b s = s.xor1 b := by
  have h0 : b.take 8 = b := List.take_of_length_le (by omega)
  simp [xorBlock, blockWords, h, blocks, Sponge.xorWords, Sponge.xor1, h0]

theorem xorBlock_two (s : Sponge) (b : List Byte) (h : b.length = 16) : xorBlock b s = s.xor2 b := by
  simp [xorBlock, blockWords, h, blocks, Sponge.xorWords, Sponge.xor2, slice]

theorem xorBlock_four (s : Sponge) (b : List Byte) (h : b.length = 32) : xorBlock b s = s.xor4 b := by
  simp [xorBlock, blockWords, h, blocks, Sponge.xorWords, Sponge.xor4, slice]

/-! The lengths of the outputs. -/

theorem squeezeWords_length (k : Nat) (s : Sponge) : (squeezeWords k s).length = 8 * k := by
  induction k generalizing s with
  | zero => rfl
  | succ k ih => simp [squeezeWords, ih]; omega

theorem squeeze_length (n : Nat) (s : Sponge) : (squeeze n s).length = n := by
  simp [squeeze, squeezeWords_length]
  omega

theorem macSqueezeWords_length (k : Nat) (s : Sponge) : (macSqueezeWords k s).length = 16 * k := by
  induction k generalizing s with
  | zero => rfl
  | succ k ih => simp [macSqueezeWords, ih]; omega

theorem macPrfSqueeze_length (n : Nat) (s : Sponge) : (macPrfSqueeze n s).length = n := by
  simp [macPrfSqueeze, macSqueezeWords_length]
  omega

theorem prfShortBytes_length (k0 k1 : Word) (m : List Byte) (n : Nat) (h : n ≤ 16) :
    (prfShortBytes k0 k1 m n).length = n := by
  simp [prfShortBytes]
  omega

theorem aeadEncBlocks_length (bs : List (List Byte)) (s : Sponge) :
    (aeadEncBlocks bs s).1.length = 16 * bs.length := by
  induction bs generalizing s with
  | nil => rfl
  | cons b bs ih => simp [aeadEncBlocks, ih]; omega

theorem aeadDecBlocks_length (bs : List (List Byte)) (s : Sponge) :
    (aeadDecBlocks bs s).1.length = 16 * bs.length := by
  induction bs generalizing s with
  | nil => rfl
  | cons b bs ih => simp [aeadDecBlocks, ih]; omega

@[simp] theorem pad_length (x : List Byte) (r : Nat) :
    (pad x r).length = x.length + 1 + (r - x.length % r - 1) := by
  simp [pad]
  omega

@[simp] theorem aeadFinalize_length (k0 k1 : Word) (s : Sponge) : (aeadFinalize k0 k1 s).length = 16 := rfl

theorem aeadEncBody_length (pt : List Byte) (s : Sponge) : (aeadEncBody pt s).1.length = pt.length := by
  simp [aeadEncBody, aeadEncBlocks_length]
  omega

theorem aeadDecBody_length (ct : List Byte) (s : Sponge) : (aeadDecBody ct s).1.length = ct.length := by
  simp [aeadDecBody, aeadDecBlocks_length]
  omega

theorem aeadEncrypt_length (k0 k1 n0 n1 : Word) (ad pt : List Byte) :
    (aeadEncrypt k0 k1 n0 n1 ad pt).length = pt.length + 16 := by
  simp [aeadEncrypt, aeadEncBody_length]

theorem aeadDecrypt_length (k0 k1 n0 n1 : Word) (ad ct : List Byte) :
    (aeadDecrypt k0 k1 n0 n1 ad ct).1.length = ct.length := by
  simp [aeadDecrypt, aeadDecBody_length]

/-! What exec can answer. -/

/-- Every face command is its parameter check, its region check and a body that ends with ERR = OK or, for AEAD.DEC,
AUTH_FAIL. -/
theorem exec_face {i : Instr} (hi : usesRegions i = true) (s : State) :
    ∃ (p : Bool) (f : State → Result), exec i s = s.checked p (usesAux i) f ∧ (p = true ↔ paramsOk i s) ∧
      ∀ u, f s = .next u → u.err = .ok ∨ (i = .aeadDec ∧ u.err = .authFail) := by
  cases i with
  | perm n => cases hi
  | clear => cases hi
  | aeadDec =>
    simp only [exec, execAeadDec]
    refine ⟨_, _, rfl, by simp [paramsOk], fun u hu => ?_⟩
    split at hu <;> cases hu <;> simp
  | aeadEnc =>
    simp only [exec, execAeadEnc]
    exact ⟨_, _, rfl, by simp [paramsOk], fun u hu => .inl (by cases hu; rfl)⟩
  | hash256 =>
    simp only [exec, execHash256]
    exact ⟨_, _, rfl, by simp [paramsOk], fun u hu => .inl (by cases hu; rfl)⟩
  | xof128 =>
    simp only [exec, execXof128]
    exact ⟨_, _, rfl, by simp [paramsOk], fun u hu => .inl (by cases hu; rfl)⟩
  | cxof128 =>
    simp only [exec, execCxof128]
    exact ⟨_, _, rfl, by simp [paramsOk], fun u hu => .inl (by cases hu; rfl)⟩
  | mac =>
    simp only [exec, execMac]
    exact ⟨_, _, rfl, by simp [paramsOk], fun u hu => .inl (by cases hu; rfl)⟩
  | prf =>
    simp only [exec, execPrf]
    exact ⟨_, _, rfl, by simp [paramsOk], fun u hu => .inl (by cases hu; rfl)⟩
  | prfshort =>
    simp only [exec, execPrfshort]
    exact ⟨_, _, rfl, by simp [paramsOk], fun u hu => .inl (by cases hu; rfl)⟩

/-- How a command can end: a check error, an output of OUT_LEN bytes in a region that fits, a tag that differs, or
one of the two commands without regions. -/
inductive Ends (i : Instr) (s : State) : State → Prop where
  | checkError (e : ErrCode) (he : e = .invalidParam ∨ e = .range) : Ends i s (s.complete e false)
  | output (auth : Bool) (y : List Byte) (hy : y.length = s.outLen.toNat)
      (hfit : RegionsFit (usesAux i) s) (hregions : usesRegions i = true) : Ends i s (s.finishFace auth y)
  | authFail (hi : i = .aeadDec) : Ends i s (s.zeroSponge.complete .authFail false)
  | permuted (n : Nat) (hi : i = .perm n) (hn : n ≤ 12) :
      Ends i s ((s.withSponge (permute n s.sponge)).complete .ok false)
  | cleared (hi : i = .clear) :
      Ends i s (State.complete
        { s with sponge := Sponge.zero, key0 := 0, key1 := 0, nonce0 := 0, nonce1 := 0 } .ok false)

theorem ends_of_checked {i : Instr} {s : State} {p : Bool} {f : State → Result}
    (h : p = true → RegionsFit (usesAux i) s → ∃ t, f s = .next t ∧ Ends i s t) :
    ∃ t, s.checked p (usesAux i) f = .next t ∧ Ends i s t := by
  rcases checked_cases s p (usesAux i) f with hc | ⟨_, _, hc⟩ | ⟨hp, hr, hc⟩
  · exact ⟨_, hc, .checkError _ (.inl rfl)⟩
  · exact ⟨_, hc, .checkError _ (.inr rfl)⟩
  · rw [hc]
    exact h hp hr

/-- Every command answers a next state, and these are the ways it ends. -/
theorem exec_ends (i : Instr) (s : State) : ∃ t, exec i s = .next t ∧ Ends i s t := by
  cases i with
  | perm n =>
    by_cases hn : n > 12
    · exact ⟨_, if_pos hn, .checkError _ (.inl rfl)⟩
    · exact ⟨_, if_neg hn, .permuted n rfl (by omega)⟩
  | aeadEnc =>
    simp only [exec, execAeadEnc]
    refine ends_of_checked (i := .aeadEnc) (s := s) fun hp hr => ⟨_, rfl, .output false _ ?_ hr rfl⟩
    rw [aeadEncrypt_length]
    simp [State.readRegion, State.inRegion] at hp ⊢
    omega
  | aeadDec =>
    simp only [exec, execAeadDec]
    refine ends_of_checked (i := .aeadDec) (s := s) fun hp hr => ?_
    split
    · refine ⟨_, rfl, .output true _ ?_ hr rfl⟩
      rw [aeadDecrypt_length]
      simp [State.readRegion, State.inRegion] at hp ⊢
      omega
    · exact ⟨_, rfl, .authFail rfl⟩
  | hash256 =>
    simp only [exec, execHash256]
    refine ends_of_checked (i := .hash256) (s := s) fun hp hr => ⟨_, rfl, .output false _ ?_ hr rfl⟩
    rw [hashBytes, squeeze_length]
    simpa using (of_decide_eq_true hp).symm
  | xof128 =>
    simp only [exec, execXof128]
    exact ends_of_checked (i := .xof128) (s := s) fun _ hr => ⟨_, rfl, .output false _ (squeeze_length _ _) hr rfl⟩
  | cxof128 =>
    simp only [exec, execCxof128]
    exact ends_of_checked (i := .cxof128) (s := s) fun _ hr => ⟨_, rfl, .output false _ (squeeze_length _ _) hr rfl⟩
  | mac =>
    simp only [exec, execMac]
    exact ends_of_checked (i := .mac) (s := s) fun _ hr => ⟨_, rfl, .output false _ (macPrfSqueeze_length _ _) hr rfl⟩
  | prf =>
    simp only [exec, execPrf]
    exact ends_of_checked (i := .prf) (s := s) fun _ hr => ⟨_, rfl, .output false _ (macPrfSqueeze_length _ _) hr rfl⟩
  | prfshort =>
    simp only [exec, execPrfshort]
    refine ends_of_checked (i := .prfshort) (s := s) fun hp hr => ⟨_, rfl, .output false _ ?_ hr rfl⟩
    exact prfShortBytes_length _ _ _ _ (by simp at hp; omega)
  | clear => exact ⟨_, rfl, .cleared rfl⟩

/-- The inversion lemma: a next state of exec is one of the ends. -/
theorem exec_cases {i : Instr} {s t : State} (h : exec i s = .next t) : Ends i s t := by
  obtain ⟨u, hu, he⟩ := exec_ends i s
  rw [hu] at h
  cases h
  exact he

end Sys2Proof.Machine
end

