-- ==== Sys2Proof/Laws/HostPort.lean ====
section
/-! SUPPORT. Laws of the host port (spec/20_memory.md R60 to R66, spec/60_exceptions.md R243, R244). -/

namespace Sys2Proof.Machine

/-- The register map is one to one on its offsets. -/
theorem regAt_eq_some {n : Nat} {r : Reg} : regAt n = some r ↔ n = r.offset := by
  constructor
  · intro h
    unfold regAt at h
    split at h <;> cases h <;> rfl
  · rintro rfl
    cases r <;> rfl

/-- Every register lies in the register window, aligned. -/
theorem Reg.offset_lt (r : Reg) : r.offset < 0x100 ∧ r.offset % 8 = 0 := by
  cases r <;> decide

/-- What each kind of target says of the offset. -/
theorem targetOf_reg {n : Nat} {off : Offset} {r : Reg} : targetOf n off = .reg r ↔ off.toNat = r.offset := by
  have hr := r.offset_lt
  unfold targetOf bufBase
  constructor
  · intro h
    split at h
    · cases h
    · split at h
      · cases h
      · split at h
        · rename_i q hq
          cases h
          exact regAt_eq_some.mp hq
        · cases h
  · intro h
    rw [if_neg (by omega), if_neg (by omega), regAt_eq_some.mpr h]

theorem targetOf_buf {n k : Nat} {off : Offset} :
    targetOf n off = .buf k ↔ off.toNat % 8 = 0 ∧ off.toNat = 0x10000 + k ∧ k < n := by
  unfold targetOf bufBase
  constructor
  · intro h
    split at h
    · cases h
    · split at h
      · have hk := Target.buf.inj h
        omega
      · split at h <;> cases h
  · intro h
    have hk : off.toNat - 0x10000 = k := by omega
    rw [if_neg (by omega), if_pos (by omega), hk]

/-- The three ways a HostWrite goes, by its target. -/
theorem hostWrite_reg {s : State} {off : Offset} {r : Reg} (d : Word) (h : off.toNat = r.offset) :
    s.hostWrite off d = (s.writeReg r d, .okay) := by
  simp [State.hostWrite, targetOf_reg.mpr h]

theorem hostWrite_buf {s : State} {off : Offset} {k : Nat} (d : Word) (h : targetOf s.cfg.bufBytes off = .buf k) :
    s.hostWrite off d = (s.writeBufWord k d, .okay) := by
  simp [State.hostWrite, h]

theorem hostWrite_nothing {s : State} {off : Offset} (d : Word) (h : targetOf s.cfg.bufBytes off = .nothing) :
    s.hostWrite off d = (s, .error) := by
  simp [State.hostWrite, h]

theorem hostRead_reg {s : State} {off : Offset} {r : Reg} (h : off.toNat = r.offset) :
    s.hostRead off = (s.readReg r, .okay) := by
  simp [State.hostRead, targetOf_reg.mpr h]

theorem hostRead_buf {s : State} {off : Offset} {k : Nat} (h : targetOf s.cfg.bufBytes off = .buf k) :
    s.hostRead off = (s.readBufWord k, .okay) := by
  simp [State.hostRead, h]

theorem hostRead_nothing {s : State} {off : Offset} (h : targetOf s.cfg.bufBytes off = .nothing) :
    s.hostRead off = (0, .error) := by
  simp [State.hostRead, h]

theorem whenIdle_busy {s : State} (h : s.busy = true) (t : State) : s.whenIdle t = s.setWerr := by
  simp [State.whenIdle, h]

theorem whenIdle_idle {s : State} (h : s.busy = false) (t : State) : s.whenIdle t = t := by
  simp [State.whenIdle, h]

/-- While BUSY = 1 every register but CTRL and STATUS drops its writes (70_reset_and_hazards.md R273). -/
theorem writeReg_busy {s : State} (h : s.busy = true) {r : Reg} (d : Word) (h1 : r ≠ .ctrl) (h2 : r ≠ .status) :
    s.writeReg r d = s.setWerr := by
  cases r <;> first | contradiction | exact whenIdle_busy h _

/-- What a HostWrite can do while BUSY = 1. -/
theorem hostWrite_busy {s : State} (h : s.busy = true) (off : Offset) (d : Word) :
    (s.hostWrite off d).1 = s ∨ (s.hostWrite off d).1 = s.setWerr ∨
      (s.hostWrite off d).1 = { s with ie := d.getLsbD 0 } ∨ (s.hostWrite off d).1 = s.writeStatus d := by
  unfold State.hostWrite
  split
  · rename_i r _
    by_cases h1 : r = .ctrl
    · subst h1
      exact .inr (.inr (.inl rfl))
    · by_cases h2 : r = .status
      · subst h2
        exact .inr (.inr (.inr rfl))
      · exact .inr (.inl (writeReg_busy h d h1 h2))
  · exact .inr (.inl (whenIdle_busy h _))
  · exact .inl rfl

end Sys2Proof.Machine
end

