-- ==== Sys2Proof/Laws/PerInstr.lean ====
section
/-! SUPPORT. Statements made per instruction, as families over Instr. WordFits: the word of a well-formed command has
no bit above bit 7 (spec/30_encoding.md R100: bits 63:8 must be 0). -/

namespace Sys2Proof.Laws.WordFits

/-- The word of the command, if it is well formed, is below 256. -/
def Statement (i : Instr) : Prop := i.wf = true → (encode i).toNat < 256

theorem perm (n : Nat) : Statement (.perm n) := by
  intro h
  have h : n < 16 := by simpa [Instr.wf] using h
  interval_cases n <;> decide

theorem aeadEnc : Statement .aeadEnc := fun _ => by decide
theorem aeadDec : Statement .aeadDec := fun _ => by decide
theorem hash256 : Statement .hash256 := fun _ => by decide
theorem xof128 : Statement .xof128 := fun _ => by decide
theorem cxof128 : Statement .cxof128 := fun _ => by decide
theorem mac : Statement .mac := fun _ => by decide
theorem prf : Statement .prf := fun _ => by decide
theorem prfshort : Statement .prfshort := fun _ => by decide
theorem clear : Statement .clear := fun _ => by decide

end Sys2Proof.Laws.WordFits
end

