-- ==== Sys2Proof/Laws/Turns.lean ====
section
/-! SUPPORT. What one step can do, said once: the turn it belongs to and what that turn answers. -/

namespace Sys2Proof.Machine

/-- A turn of the core with no command in flight, with a command, and with a word that does not decode. -/
theorem coreTurn_idle {s : State} (h : s.pending = none) : coreTurn s = .next s := by simp [coreTurn, h]

theorem coreTurn_command {s : State} {w : Word} {i : Instr} (hw : s.pending = some w) (hi : decode w = .command i) :
    coreTurn s = exec i s := by simp [coreTurn, hw, hi]

theorem coreTurn_unsupported {s : State} {w : Word} {why : Reject} (hw : s.pending = some w)
    (hi : decode w = .unsupported why) : coreTurn s = .next (s.complete .unsupported false) := by
  simp [coreTurn, hw, hi]

/-- A turn of the core answers one of three ways. -/
theorem coreTurn_cases {s t : State} (h : coreTurn s = .next t) :
    (s.pending = none ∧ t = s) ∨ (∃ w why, s.pending = some w ∧ decode w = .unsupported why ∧
      t = s.complete .unsupported false) ∨ (∃ w i, s.pending = some w ∧ decode w = .command i ∧ exec i s = .next t) := by
  cases hp : s.pending with
  | none =>
    rw [coreTurn_idle hp] at h
    cases h
    exact .inl ⟨rfl, rfl⟩
  | some w =>
    cases hd : decode w with
    | command i => exact .inr (.inr ⟨w, i, rfl, hd, (coreTurn_command hp hd) ▸ h⟩)
    | unsupported why =>
      rw [coreTurn_unsupported hp hd] at h
      cases h
      exact .inr (.inl ⟨w, why, rfl, hd, rfl⟩)

/-- The schedule decides while it lasts. -/
theorem nextTurn_cons {s : State} {x : Turn} {xs : List Turn} (h : s.schedule = x :: xs) : s.nextTurn = some x := by
  simp [State.nextTurn, h]

theorem nextTurn_busy {s : State} (h : s.schedule = []) (hb : s.busy = true) : s.nextTurn = some .core := by
  simp [State.nextTurn, h, hb]

/-- A step answers one of four ways. -/
theorem step_cases {s t : State} (h : step s = .next t) :
    (s.nextTurn = none ∧ t = s) ∨ (s.nextTurn = some .core ∧ coreTurn s.popTurn = .next t) ∨
      (s.nextTurn = some .host ∧ t = hostTurn s.popTurn) ∨ (s.nextTurn = some .reset ∧ t = resetTurn s.popTurn) := by
  unfold step at h
  split at h
  · cases h
    exact .inl ⟨‹_›, rfl⟩
  · exact .inr (.inl ⟨‹_›, h⟩)
  · cases h
    exact .inr (.inr (.inl ⟨‹_›, rfl⟩))
  · cases h
    exact .inr (.inr (.inr ⟨‹_›, rfl⟩))

/-- What the host's turn does, by its statement (30_encoding.md R107). -/
theorem hostTurn_none {s : State} (h : s.hostStmt = none) : hostTurn s = s := by simp [hostTurn, h]

theorem hostTurn_some {s : State} {x : HostStmt} (h : s.hostStmt = some x) : hostTurn s = s.runStmt x := by
  simp [hostTurn, h]

end Sys2Proof.Machine
end

