-- ==== Sys2Proof/Tests/Slice0.lean ====
section
/-! SUPPORT. The model's own tests: decoding of words written out from spec/30_encoding.md, worked examples of
spec/95_test_vectors.md on one command or one layer, and, for every obligation with hypotheses, a witness that meets
them. -/

namespace Sys2Proof.Tests

open Sys2Proof.Machine

/-! ## Decoding (30_encoding.md R100, R103, R105), the words written out bit by bit -/

theorem test_decode_perm12 : decode 0b11000001 = .command (.perm 12) := by decide
theorem test_decode_perm0 : decode 0b00000001 = .command (.perm 0) := by decide
theorem test_decode_perm15 : decode 0b11110001 = .command (.perm 15) := by decide
theorem test_decode_aeadEnc : decode 0b00000010 = .command .aeadEnc := by decide
theorem test_decode_aeadDec : decode 0b00000011 = .command .aeadDec := by decide
theorem test_decode_hash256 : decode 0b00000100 = .command .hash256 := by decide
theorem test_decode_xof128 : decode 0b00000101 = .command .xof128 := by decide
theorem test_decode_cxof128 : decode 0b00000110 = .command .cxof128 := by decide
theorem test_decode_mac : decode 0b00000111 = .command .mac := by decide
theorem test_decode_prf : decode 0b00001000 = .command .prf := by decide
theorem test_decode_prfshort : decode 0b00001001 = .command .prfshort := by decide
theorem test_decode_clear : decode 0b00001111 = .command .clear := by decide

/-- The illegal words of spec/95_test_vectors.md section 2.3. -/
theorem test_decode_illegal :
    decode 0x00 = .unsupported .reservedOp ∧ decode 0x0A = .unsupported .reservedOp ∧
      decode 0x0E = .unsupported .reservedOp ∧ decode 0x1C1 = .unsupported .reservedBits ∧
      decode 0x12 = .unsupported .nonzeroRound ∧ decode 0x14 = .unsupported .nonzeroRound ∧
      decode 0x1F = .unsupported .nonzeroRound := by decide

/-- A round count that does not fit the field R is ill formed. -/
theorem test_illformed_perm16 : (Instr.perm 16).wf = false := by decide

/-! ## Small states -/

/-- A buffer of 64 bytes, the key and nonce of spec/95_test_vectors.md. -/
def base : State :=
  { State.reset with
    cfg := { bufBytes := 64 }
    key0 := 0x0706050403020100
    key1 := 0x0F0E0D0C0B0A0908
    nonce0 := 0x1716151413121110
    nonce1 := 0x1F1E1D1C1B1A1918 }

/-- `base` with the region registers set. -/
def regions (ap al ip il op ol : BitVec 32) : State :=
  { base with auxPtr := ap, auxLen := al, inPtr := ip, inLen := il, outPtr := op, outLen := ol }

/-- The next state of an answer, reset if there is none. -/
def after (r : Result) : State :=
  match r with
  | .next t => t
  | .fault _ => State.reset
  | .refused _ => State.reset

/-- The OUT region after an answer. -/
def outBytes (r : Result) : List Byte := (after r).readRegion (after r).outRegion

/-- "ascon" (61 73 63 6F 6E). -/
def asconBytes : List Byte := [0x61, 0x73, 0x63, 0x6F, 0x6E]

/-! ## The worked examples of the commands (spec/95_test_vectors.md section 2) -/

theorem test_rotr64 : rotr64 0x0123456789ABCDEF 19 = 0x79BDE02468ACF135 := by decide

theorem test_perm1 : (after (exec (.perm 1) base)).sponge =
    { s0 := 0x000964B00000004B, s1 := 0x0000000096000213, s2 := 0x53FFFFFFFFFFFF90, s3 := 0x12E580000000004B, s4 := 0 } := by
  decide

theorem test_perm12 : (after (exec (.perm 12) base)).sponge =
    { s0 := 0x78EA7AE5CFEBB108, s1 := 0x9B9BFB8513B560F7, s2 := 0x6937F83E03D11A50, s3 := 0x3FE53F36F2C1178C,
      s4 := 0x045D648E4DEF12C9 } := by decide

theorem test_aeadEnc_empty : outBytes (exec .aeadEnc (regions 0 0 0 0 0 16)) =
    [0x4F, 0x9C, 0x27, 0x82, 0x11, 0xBE, 0xC9, 0x31, 0x6B, 0xF6, 0x8F, 0x46, 0xEE, 0x8B, 0x2E, 0xC6] := by decide +kernel

/-- AD "ASCON", plaintext "ascon", in place (program P2). -/
theorem test_aeadEnc_inplace :
    outBytes (exec .aeadEnc (((regions 0 5 8 5 8 21).memWrite 0 [0x41, 0x53, 0x43, 0x4F, 0x4E]).memWrite 8 asconBytes)) =
      [0x48, 0x44, 0x62, 0x4E, 0x51, 0x31, 0xF5, 0x77, 0x94, 0xCC, 0x7D, 0x93, 0xD4, 0xD9, 0x2D, 0xD5, 0xCB, 0xAD, 0xB4,
       0x8E, 0x0B] := by decide +kernel

/-- Program P2's ciphertext and tag, with AD "ASCON". -/
def p2Cipher : State :=
  ((regions 0 5 8 21 8 5).memWrite 0 [0x41, 0x53, 0x43, 0x4F, 0x4E]).memWrite 8
    [0x48, 0x44, 0x62, 0x4E, 0x51, 0x31, 0xF5, 0x77, 0x94, 0xCC, 0x7D, 0x93, 0xD4, 0xD9, 0x2D, 0xD5, 0xCB, 0xAD, 0xB4, 0x8E,
     0x0B]

theorem test_aeadDec_ok : outBytes (exec .aeadDec p2Cipher) = asconBytes ∧
    (after (exec .aeadDec p2Cipher)).statusWord = 0x102 := by decide +kernel

/-- Program P3: the last tag byte changed; nothing written, ERR = 2. -/
theorem test_aeadDec_tampered :
    outBytes (exec .aeadDec (p2Cipher.memWrite 28 [0x0A])) = [0x48, 0x44, 0x62, 0x4E, 0x51] ∧
      (after (exec .aeadDec (p2Cipher.memWrite 28 [0x0A]))).statusWord = 0x22 := by decide +kernel

theorem test_hash256_ascon : outBytes (exec .hash256 ((regions 0 0 0 5 16 32).memWrite 0 asconBytes)) =
    [0x65, 0x90, 0x49, 0x28, 0xAC, 0x01, 0x6B, 0xC0, 0x25, 0x77, 0xB2, 0x3B, 0x3F, 0x79, 0xE3, 0x36, 0xFD, 0xF4, 0x3B, 0x6D,
     0x81, 0x74, 0x60, 0x58, 0x97, 0x9C, 0x6C, 0xD6, 0x76, 0x30, 0xA5, 0x93] := by decide +kernel

theorem test_xof128_nine : outBytes (exec .xof128 (regions 0 0 0 0 0 9)) =
    [0x47, 0x3D, 0x5E, 0x61, 0x64, 0xF5, 0x8B, 0x39, 0xDF] := by decide +kernel

/-- The message 00 01 02 with Z = 10 11 12. -/
theorem test_cxof128_z : outBytes (exec .cxof128
    (((regions 0 3 8 3 16 16).memWrite 0 [0x10, 0x11, 0x12]).memWrite 8 [0x00, 0x01, 0x02])) =
      [0x99, 0x87, 0xC1, 0xC7, 0x4A, 0x51, 0x7C, 0x78, 0x32, 0x49, 0x1F, 0x65, 0xAC, 0xE8, 0x5E, 0x6A] := by decide +kernel

/-- A message of 32 bytes is two blocks. -/
theorem test_mac_two_blocks : outBytes (exec .mac
    ((regions 0 0 0 32 32 16).memWrite 0 ((List.range 32).map (BitVec.ofNat 8)))) =
      [0x10, 0x83, 0xE8, 0xF0, 0x0D, 0xFE, 0x6A, 0xA0, 0x90, 0x72, 0x20, 0x15, 0xAE, 0x24, 0x00, 0x23] := by decide +kernel

theorem test_prf_ascon : outBytes (exec .prf ((regions 0 0 0 5 8 24).memWrite 0 asconBytes)) =
    [0xA7, 0x53, 0xCE, 0x11, 0x00, 0xE3, 0x01, 0xB6, 0x56, 0x85, 0xD0, 0xA6, 0x5C, 0xC8, 0x77, 0x73, 0x27, 0x0E, 0x86, 0x21,
     0x96, 0x01, 0x8B, 0x0B] := by decide +kernel

/-- A tag of 4 bytes is no prefix of the 16-byte tag. -/
theorem test_prfshort_four : outBytes (exec .prfshort
    ((regions 0 0 0 16 16 4).memWrite 0 ((List.range 16).map (BitVec.ofNat 8)))) = [0xF9, 0x2E, 0xE4, 0xEA] := by decide +kernel

theorem test_prfshort_ascon : outBytes (exec .prfshort ((regions 0 0 0 5 8 16).memWrite 0 asconBytes)) =
    [0x63, 0x34, 0xFA, 0x1B, 0xCC, 0x00, 0x08, 0x5F, 0x3F, 0x6C, 0x86, 0xF8, 0x42, 0x55, 0xCA, 0x8F] := by decide +kernel

theorem test_clear : (after (exec .clear base)).key1 = 0 ∧ (after (exec .clear base)).nonce0 = 0 := by decide

/-! ## Checks, regions and the host port (spec/95_test_vectors.md sections 2.7 and 2.8) -/

/-- HASH256 with OUT_LEN 16 and OUT_PTR out of range reports INVALID_PARAM (checked before RANGE). -/
theorem test_check_order : (after (exec .hash256 (regions 0 0 0 0 0x20000 16))).err = .invalidParam := by decide

/-- OUT ends exactly at BUF_BYTES: OK; one byte later: RANGE. -/
theorem test_range_edge : (after (exec .hash256 (regions 0 0 0 0 32 32))).err = .ok ∧
    (after (exec .hash256 (regions 0 0 0 0 33 32))).err = .range := by decide

/-- Partial overlap of OUT and IN; a zero-length region past the end; a sum that would wrap 32 bits. -/
theorem test_range_cases : (after (exec .xof128 (regions 0 0 0 8 4 8))).err = .range ∧
    (after (exec .xof128 (regions 0 0 65 0 0 0))).err = .range ∧
    (after (exec .xof128 (regions 0 0 0xFFFFFFFF 2 0 0))).err = .range := by decide

theorem test_host_misaligned : base.hostRead 0x0C = (0, .error) := by decide
theorem test_host_key_reads_zero : base.hostRead 0x50 = (0, .okay) := by decide

theorem test_host_buffer_write : ((base.hostWrite 0x10020 0x0000006E6F637361).1.memRead 0x20 8) =
    [0x61, 0x73, 0x63, 0x6F, 0x6E, 0x00, 0x00, 0x00] := by decide

theorem test_assemble_wait : assemble [.cmd (.perm 12), .wait, .label 7, .bne (.reg .status) 0x100 0x100 7] =
    some [.wr 0x10 0xC1, .bne 0x08 0x1 0x0 1, .bne 0x08 0x100 0x100 2] := by decide

/-! ## Witnesses: a state and operands that meet the hypotheses of each obligation -/

/-- A state with PERM 12 in flight and a host about to write S0 (program P5). -/
def p5 : State :=
  { (base.issue 0xC1) with host := { program := [.wr 0x20 0x1234], pos := 0, log := [] } }

theorem witness_DecodeOfEncode : (Instr.perm 15).wf = true ∧ Instr.clear.wf = true := by decide
theorem witness_EncodeOfDecode : decode 0xF1 = .command (.perm 15) := by decide

theorem witness_IllegalWords :
    (base.issue 0x00).pending = some 0x00 ∧ (0x00 : Word).toNat % 16 = 0x0 ∧
    (base.issue 0x0A).pending = some 0x0A ∧ 0xA ≤ (0x0A : Word).toNat % 16 ∧ (0x0E : Word).toNat % 16 ≤ 0xE ∧
    (base.issue 0x101).pending = some 0x101 ∧ 0x100 ≤ (0x101 : Word).toNat ∧
    (base.issue 0x12).pending = some 0x12 ∧ (0x12 : Word).toNat % 16 ≠ 0x1 ∧ (0x12 : Word).toNat / 16 % 16 ≠ 0 := by
  decide

theorem witness_StepRunsDecodedCommand : p5.nextTurn = some .core ∧ p5.pending = some 0xC1 ∧
    decode 0xC1 = .command (.perm 12) := by decide
theorem witness_PlacedWordRunsNext : decodeTableWord 64 0xC1 = some (.perm 12) := by decide

theorem base_inv : Inv base where
  canonical := List.Pairwise.nil
  inBuffer := by simp [base, State.reset]
  size := by decide
  pending := by simp [base, State.reset]
  busy := by decide
  authok := by decide

theorem witness_StepKeepsInvariant : Inv base ∧ step base = .next base := ⟨base_inv, rfl⟩
theorem witness_StepKeepsBufferSize : step base = .next base := rfl
theorem witness_CommandInFlightIsExecuted : p5.pending = some 0xC1 ∧
    .reset ∉ ([.host, .core, .reset] : List Turn).takeWhile (fun x => decide (x ≠ .core)) ∧
    .reset ∉ ([] : List Turn).takeWhile (fun x => decide (x ≠ .core)) := by decide

theorem witness_OperandsFixedWhileBusy :
    State.busy { p5 with schedule := [.host] } = true ∧
      ∃ t, step { p5 with schedule := [.host] } = .next t ∧ t.busy = true := ⟨by decide, _, rfl, by decide⟩

theorem witness_ResetSetsEveryRegister : State.nextTurn { p5 with schedule := [.reset] } = some .reset := by decide
theorem witness_CommandsKeepOtherRegisters : ∃ t, exec .mac base = .next t ∧ Instr.mac ≠ .clear :=
  ⟨_, rfl, by decide⟩

theorem witness_CommandsWriteOnlyTheirOutput :
    (∃ t, exec .clear base = .next t ∧ usesRegions .clear = false) ∧
    (∃ t, exec .hash256 base = .next t ∧ t.err ≠ .ok) ∧ ∃ t, exec .xof128 (regions 0 0 0 0 63 1) = .next t :=
  ⟨⟨_, rfl, rfl⟩, ⟨_, rfl, by decide⟩, _, rfl⟩

/-- The checks one by one: a word that does not decode, OUT_LEN 31, a region one byte too far, all in order. -/
theorem witness_ReportedErrorFollowsCheckOrder :
    ((base.issue 0x00).pending = some 0x00 ∧ decode 0x00 = .unsupported .reservedOp ∧
      ∃ t, coreTurn (base.issue 0x00) = .next t) ∧
    (((regions 0 0 0 0 0 31).issue 0x04).pending = some 0x04 ∧ decode 0x04 = .command .hash256 ∧
      ¬paramsOk .hash256 ((regions 0 0 0 0 0 31).issue 0x04)) ∧
    (paramsOk .hash256 ((regions 0 0 0 0 33 32).issue 0x04) ∧ usesRegions .hash256 = true ∧
      ¬RegionsFit (usesAux .hash256) ((regions 0 0 0 0 33 32).issue 0x04)) ∧
    (paramsOk .hash256 ((regions 0 0 0 0 32 32).issue 0x04) ∧
      RegionsFit (usesAux .hash256) ((regions 0 0 0 0 32 32).issue 0x04)) := by
  refine ⟨⟨rfl, by decide, _, rfl⟩, ⟨rfl, by decide, ?_⟩, ⟨?_, rfl, by decide⟩, ?_, by decide⟩
  · show ¬(((regions 0 0 0 0 0 31).issue 0x04).outLen.toNat = 32)
    decide
  · show ((regions 0 0 0 0 33 32).issue 0x04).outLen.toNat = 32
    decide
  · show ((regions 0 0 0 0 32 32).issue 0x04).outLen.toNat = 32
    decide

theorem witness_FailedCommandEffects :
    (∃ t, coreTurn (base.issue 0x00) = .next t ∧ t.err = .unsupported) ∧
    (∃ t, coreTurn (base.issue 0xD1) = .next t ∧ t.err = .invalidParam) ∧
    (∃ t, coreTurn ((regions 0 0 65 0 0 0).issue 0x05) = .next t ∧ t.err = .range) ∧
    (after (coreTurn (((regions 0 0 0 16 0 0).memWrite 0 (zeroBytes 16)).issue 0x03))).err = .authFail :=
  ⟨⟨_, rfl, rfl⟩, ⟨_, rfl, rfl⟩, ⟨_, rfl, by decide⟩, by decide +kernel⟩

theorem witness_PermMeetsItsRule : (12 : Nat) ≤ 12 ∧ (12 : Nat) < 13 ∧ (13 : Nat) < 16 ∧
    (12 : Nat) < 15 ∧ (15 : Nat) < 16 := by decide

theorem witness_AeadEnc :
    ((regions 0 16 16 32 16 48).outLen.toNat = (regions 0 16 16 32 16 48).inLen.toNat + 16 ∧
      RegionsFit true (regions 0 16 16 32 16 48)) ∧
    (regions 0 0 0 0 0 15).outLen.toNat ≠ (regions 0 0 0 0 0 15).inLen.toNat + 16 ∧
    ((regions 0 8 0 0 7 16).outLen.toNat = (regions 0 8 0 0 7 16).inLen.toNat + 16 ∧
      ¬RegionsFit true (regions 0 8 0 0 7 16)) := by decide

/-- AEAD.DEC: the tag of the empty message (42_aead.md R175) accepted, 16 zero bytes rejected, IN_LEN 15, OUT_LEN off
by one, OUT overlapping AUX. -/
theorem witness_AeadDec :
    (16 ≤ p2Cipher.inLen.toNat ∧ p2Cipher.outLen.toNat = p2Cipher.inLen.toNat - 16 ∧ RegionsFit true p2Cipher ∧
      (aeadDecrypt p2Cipher.key0 p2Cipher.key1 p2Cipher.nonce0 p2Cipher.nonce1 (auxBytes p2Cipher)
        ((inBytes p2Cipher).take (p2Cipher.inLen.toNat - 16))).2 = (inBytes p2Cipher).drop (p2Cipher.inLen.toNat - 16)) ∧
    (regions 0 0 0 15 0 0).inLen.toNat < 16 ∧
    (regions 0 0 0 16 0 1).outLen.toNat ≠ (regions 0 0 0 16 0 1).inLen.toNat - 16 ∧
    (16 ≤ (regions 0 8 32 17 7 1).inLen.toNat ∧
      (regions 0 8 32 17 7 1).outLen.toNat = (regions 0 8 32 17 7 1).inLen.toNat - 16 ∧
      ¬RegionsFit true (regions 0 8 32 17 7 1)) := by decide +kernel

/-- AEAD.DEC: IN_LEN 16, the least, with a tag of zeros, which differs. -/
def zeroTag : State := (regions 0 0 48 16 0 0).memWrite 48 (zeroBytes 16)

theorem witness_AeadDec_authFail :
    16 ≤ zeroTag.inLen.toNat ∧ zeroTag.outLen.toNat = zeroTag.inLen.toNat - 16 ∧ RegionsFit true zeroTag ∧
      (aeadDecrypt zeroTag.key0 zeroTag.key1 zeroTag.nonce0 zeroTag.nonce1 (auxBytes zeroTag)
        ((inBytes zeroTag).take (zeroTag.inLen.toNat - 16))).2 ≠ (inBytes zeroTag).drop (zeroTag.inLen.toNat - 16) := by
  decide +kernel

theorem witness_Hash256 :
    ((regions 0 0 0 64 0 32).outLen.toNat = 32 ∧ RegionsFit false (regions 0 0 0 64 0 32)) ∧
    (regions 0 0 0 0 0 31).outLen.toNat ≠ 32 ∧
    ((regions 0 0 0 0 33 32).outLen.toNat = 32 ∧ ¬RegionsFit false (regions 0 0 0 0 33 32)) := by decide

theorem witness_Xof128 : RegionsFit false (regions 0 0 64 0 0 64) ∧ ¬RegionsFit false (regions 0 0 65 0 0 0) := by
  decide

/-- A buffer large enough for a customization string of 256 bytes. -/
def big : State := { regions 0 256 0 0 256 0 with cfg := Config.default }

theorem witness_Cxof128 :
    (big.auxLen.toNat ≤ 256 ∧ RegionsFit true big) ∧ 256 < (regions 0 257 0 0 0 0).auxLen.toNat ∧
    ((regions 0 8 0 0 4 4).auxLen.toNat ≤ 256 ∧ ¬RegionsFit true (regions 0 8 0 0 4 4)) := by decide

theorem witness_Mac :
    ((regions 0 0 0 48 48 16).outLen.toNat ≤ 16 ∧ RegionsFit false (regions 0 0 0 48 48 16)) ∧
    16 < (regions 0 0 0 0 0 17).outLen.toNat ∧
    ((regions 0 0 0 0 49 16).outLen.toNat ≤ 16 ∧ ¬RegionsFit false (regions 0 0 0 0 49 16)) := by decide

theorem witness_Prf : RegionsFit false (regions 0 0 0 32 32 32) ∧ ¬RegionsFit false (regions 0 0 0 32 31 32) := by decide

theorem witness_Prfshort :
    ((regions 0 0 0 16 48 16).inLen.toNat ≤ 16 ∧ (regions 0 0 0 16 48 16).outLen.toNat ≤ 16 ∧
      RegionsFit false (regions 0 0 0 16 48 16)) ∧
    16 < (regions 0 0 0 17 0 0).inLen.toNat ∧ 16 < (regions 0 0 0 0 0 17).outLen.toNat ∧
    ((regions 0 0 0 16 15 16).inLen.toNat ≤ 16 ∧ (regions 0 0 0 16 15 16).outLen.toNat ≤ 16 ∧
      ¬RegionsFit false (regions 0 0 0 16 15 16)) := by decide

theorem witness_RotationMovesBits : (1 ≤ 1 ∧ 1 ≤ 63 ∧ 0 < 64) ∧ (1 ≤ 63 ∧ 63 ≤ 63 ∧ 63 < 64) := by decide
theorem witness_RoundConstantLayer : 0 ≤ 11 ∧ 11 ≤ 11 ∧ 8 ≤ 8 ∧ 7 < 8 := by decide
theorem witness_SubstitutionIsTheSbox : 0 < 64 ∧ 63 < 64 := by decide
theorem witness_DiffusionMixesEachWord : 0 < 64 ∧ 63 < 64 := by decide
theorem witness_PermuteRunsTheLastRounds : 0 ≤ 12 ∧ 12 ≤ 12 := by decide
theorem witness_ConvertersAreInverse : (bytes8 0x0123456789ABCDEF).length = 8 ∧ 0 < 8 ∧ 7 < 8 := by decide
theorem witness_PaddingFillsTheLastBlock : (8 = 8 ∨ 8 = 16 ∨ 8 = 32) ∧ (16 = 8 ∨ 16 = 16 ∨ 16 = 32) ∧
    (32 = 8 ∨ 32 = 16 ∨ 32 = 32) := by decide

/-- Empty, and a full block before the padding block. -/
theorem witness_AeadBlockLoops :
    padBlocks [] 16 = [] ++ [0x01 :: zeroBytes 15] ∧
    padBlocks (zeroBytes 16) 16 = [zeroBytes 16] ++ [0x01 :: zeroBytes 15] ∧
    blocks 16 (([] : List Byte).length / 16 + 1) ([] ++ List.replicate (16 - ([] : List Byte).length % 16) 0) =
      [] ++ [zeroBytes 16] := by decide

theorem witness_MacPhasesFoldOverBlocks :
    padBlocks [] 32 = [] ++ [0x01 :: zeroBytes 31] ∧
    padBlocks (zeroBytes 32) 32 = [zeroBytes 32] ++ [0x01 :: zeroBytes 31] := by decide

theorem witness_HashPhasesFoldOverBlocks : 9 ≤ 32 := by decide

theorem witness_DecCommandUndoesEncCommand : ∃ t, exec .aeadEnc (regions 0 0 0 0 0 16) = .next t ∧ t.err = .ok :=
  ⟨after (exec .aeadEnc (regions 0 0 0 0 0 16)), by
    obtain ⟨t, ht, _⟩ := exec_ends .aeadEnc (regions 0 0 0 0 0 16)
    rw [ht]
    rfl, by decide⟩

/-- Two states that differ in S and in a byte outside the regions, and give HASH256 the same operands. -/
theorem witness_FaceResultsDependOnOperandsOnly :
    usesRegions .hash256 = true ∧
    SameOperands .hash256 ((regions 0 0 0 0 8 32).memWrite 1 [0x07]) (regions 0 0 0 0 8 32) ∧
    (∃ t, exec .hash256 ((regions 0 0 0 0 8 32).memWrite 1 [0x07]) = .next t) ∧
    ∃ t, exec .hash256 (regions 0 0 0 0 8 32) = .next t :=
  ⟨rfl, ⟨rfl, rfl, rfl, rfl, rfl, fun _ => rfl, fun _ => rfl, rfl, fun _ => rfl, fun _ => ⟨rfl, rfl⟩,
    fun _ => ⟨rfl, rfl⟩⟩, (exec_ends _ _).imp fun _ h => h.1, (exec_ends _ _).imp fun _ h => h.1⟩

theorem witness_ShorterOutputsArePrefixes : 9 ≤ 32 := by decide

/-- Each kind of unmapped offset at its ends, and mapped ones beside them. -/
theorem witness_ErrorResponsesChangeNothing :
    Unmapped 64 0x0C ∧ Unmapped 64 0x18 ∧ Unmapped 64 0x48 ∧ Unmapped 64 0xA0 ∧ Unmapped 64 0xFFF8 ∧
      Unmapped 64 0x10040 ∧ Unmapped 64 0xFFFFFFF8 := by
  unfold Unmapped
  omega

theorem witness_ErrorResponsesChangeNothing_mapped :
    ¬Unmapped 64 0x00 ∧ ¬Unmapped 64 0x98 ∧ ¬Unmapped 64 0x10000 ∧ ¬Unmapped 64 0x10038 := by
  unfold Unmapped
  omega

theorem witness_BufferWindowLanes : base.cfg.valid ∧ 7 < base.cfg.bufBytes / 8 ∧
    (0x10038 : Offset).toNat = 0x10000 + 8 * 7 ∧ (0x10000 : Offset).toNat = 0x10000 + 8 * 0 ∧ base.busy = false ∧
    p5.busy = true ∧ p5.cfg.valid := by decide

theorem witness_DroppedWritesSetWerr : p5.busy = true ∧ Reg.s0.guarded ∧ Reg.outLen.guarded ∧
    targetOf p5.cfg.bufBytes 0x10038 = .buf 56 ∧ base.busy = false ∧ base.werr = false ∧ p5.setWerr.werr = true := by
  decide

theorem witness_DroppedWritesSetWerr_core :
    ∃ t, coreTurn (base.setWerr.issue 0x0F) = .next t := ⟨_, rfl⟩
theorem witness_BusyReadsHideTheState : p5.busy = true := by decide
/-- Each error code is met in a state. -/
theorem witness_StatusBitsAndClearing : 9 ≤ 63 ∧ base.err = .ok ∧ (base.complete .invalidParam false).err = .invalidParam ∧
    (base.complete .authFail false).err = .authFail ∧ (base.complete .unsupported false).err = .unsupported ∧
    (base.complete .range false).err = .range := by decide

theorem witness_CmdWriteIssues : p5.busy = true ∧ base.busy = false := by decide
theorem witness_RegistersReadBack : base.busy = false ∧ Reg.s4 ∈ [Reg.s0, .s1, .s2, .s3, .s4, .nonce0, .nonce1] ∧
    Reg.outLen ∈ [Reg.auxPtr, .auxLen, .inPtr, .inLen, .outPtr, .outLen] ∧ Reg.ctrl ≠ .cmd ∧ Reg.key0 ≠ .key1 := by
  decide

theorem witness_RegisterAccessIsExact : base.busy = false := by decide

theorem witness_InterruptFollowsDone : (∃ t, coreTurn (base.issue 0x00) = .next t) ∧ (0x2 : Word).getLsbD 1 = true ∧
    (0x0 : Word).getLsbD 0 = false ∧ base.busy = false := ⟨⟨_, rfl⟩, by decide⟩

/-- A host at the statements of a line. -/
def hostAtAll (l : List HostStmt) : State := { base with host := { program := l, pos := 0, log := [] } }

/-- A host at one statement. -/
def hostAt (x : HostStmt) : State := hostAtAll [x]

/-- A write of CTRL while BUSY = 1 is accepted and does not set WERR (spec/10_state.md R25). -/
theorem test_host_ctrl_busy : (p5.hostWrite 0x00 0x1).1.ie = true ∧ (p5.hostWrite 0x00 0x1).1.werr = false ∧
    p5.busy = true := by decide

/-- RDBYTES of five bytes is one read of eight, and its result the five (spec/30_encoding.md R108). -/
theorem test_rdBytes :
    (hostTurn ((hostAtAll (rdWords 8 1)).memWrite 8 (asconBytes ++ [1, 2, 3]))).host.rdResult 0 5 = asconBytes := by
  decide

theorem witness_HostStatementIsOneTransaction :
    (hostAt (.wr 0x20 1)).hostStmt = some (.wr 0x20 1) ∧ (hostAt (.rd 0x20)).hostStmt = some (.rd 0x20) ∧
      (hostAt (.bne 0x08 1 0 0)).hostStmt = some (.bne 0x08 1 0 0) := by decide

theorem witness_WaitRepeatsWhileBusy :
    AsmLine.expand [] 0 .wait = some [.bne 0x08 1 0 0] ∧ (hostAt (.bne 0x08 1 0 0)).hostStmt = some (.bne 0x08 1 0 0) ∧
      (hostAt (.bne 0x08 1 0 0)).busy = false ∧ ((hostAt (.bne 0x08 1 0 0)).issue 0xC1).busy = true ∧
      ((hostAt (.bne 0x08 1 0 0)).issue 0xC1).hostStmt = some (.bne 0x08 1 0 0) := by decide

/-- The last eight bytes of the buffer. -/
theorem witness_ByteLinesMoveTheBytes :
    (hostAtAll (rdWords 56 1)).busy = false ∧ (hostAtAll (rdWords 56 1)).cfg.valid ∧ 56 % 8 = 0 ∧
    rdWords 56 1 <+: (hostAtAll (rdWords 56 1)).host.program.drop 0 ∧
    (AsmLine.rdBytes 56 5).expand [] 0 = some (rdWords 56 1) ∧ 56 + 8 * ((5 + 7) / 8) ≤ base.cfg.bufBytes ∧
    (AsmLine.wrBytes 56 asconBytes).expand [] 0 = some [.wr 0x10038 0x0000006E6F637361] ∧
    [HostStmt.wr 0x10038 0x0000006E6F637361] <+: (hostAt (.wr 0x10038 0x0000006E6F637361)).host.program.drop 0 ∧
    56 + 8 * ((asconBytes.length + 7) / 8) ≤ base.cfg.bufBytes := by decide

theorem witness_ExpansionSizes : AsmLine.expand [] 0 (.wrBytes 0x40 asconBytes) =
    some [.wr 0x10040 0x0000006E6F637361] := by decide

theorem witness_BothOrdersAdmitted : p5.busy = true ∧ GuardedOffset p5.cfg.bufBytes Reg.s0.off ∧
    p5.hostStmt = some (.wr Reg.s0.off 0x1234) ∧ GuardedOffset p5.cfg.bufBytes Reg.cmd.off ∧
    GuardedOffset p5.cfg.bufBytes 0x10038 :=
  ⟨rfl, .inl ⟨.s0, by decide, rfl⟩, rfl, .inl ⟨.cmd, by decide, rfl⟩, .inr ⟨56, by decide⟩⟩

theorem witness_EndedRunStays : base.ended = true ∧ base.schedule = [] := by decide

end Sys2Proof.Tests
end

section
/-! PROOFS. The parameter BUF_BYTES over a step (spec/00_scope.md R5, spec/20_memory.md R64): each agent's turn keeps
the field `cfg`, and so does the step that makes it. -/

namespace Sys2Proof.Machine

/-- However a command ends, it keeps what no command writes. -/
theorem Ends.keepsRest {i : Instr} {s t : State} (h : Ends i s t) : KeepsRest s t := by
  cases h with
  | checkError e => exact complete_rest s e false
  | output auth y hy => exact (finishFace_done s auth y hy).rest
  | authFail | permuted | cleared => constructor <;> rfl

/-- The core's turn keeps what no command writes, whether it runs a command, rejects a word or is idle. -/
theorem coreTurn_keepsRest {s t : State} (h : coreTurn s = .next t) : KeepsRest s t := by
  rcases coreTurn_cases h with ⟨_, rfl⟩ | ⟨_, _, _, _, rfl⟩ | ⟨_, _, _, _, hexec⟩
  · constructor <;> rfl
  · exact complete_rest s .unsupported false
  · exact (exec_cases hexec).keepsRest

/-- A guarded write keeps the parameter if its effect does: when it is dropped, only WERR changes. -/
theorem whenIdle_cfg {s t : State} (h : t.cfg = s.cfg) : (s.whenIdle t).cfg = s.cfg := by
  cases hb : s.busy with
  | true => rw [whenIdle_busy hb, State.setWerr_cfg]
  | false => rw [whenIdle_idle hb, h]

/-- No register of the map holds the parameter. -/
@[simp] theorem writeReg_cfg (s : State) (r : Reg) (d : Word) : (s.writeReg r d).cfg = s.cfg := by
  cases r with
  | ctrl | status => rfl
  | _ => exact whenIdle_cfg rfl

@[simp] theorem writeBufWord_cfg (s : State) (k : Nat) (d : Word) : (s.writeBufWord k d).cfg = s.cfg :=
  whenIdle_cfg (State.memWrite_cfg ..)

@[simp] theorem hostWrite_cfg (s : State) (off : Offset) (d : Word) : (s.hostWrite off d).1.cfg = s.cfg := by
  cases ht : targetOf s.cfg.bufBytes off with
  | reg r => rw [hostWrite_reg d (targetOf_reg.mp ht), writeReg_cfg]
  | buf k => rw [hostWrite_buf d ht, writeBufWord_cfg]
  | nothing => rw [hostWrite_nothing d ht]

@[simp] theorem runStmt_cfg (s : State) (x : HostStmt) : (s.runStmt x).cfg = s.cfg := by
  cases x with
  | wr off d => exact hostWrite_cfg s off d
  | rd off => rfl
  | bne off mask value label => rfl

@[simp] theorem hostTurn_cfg (s : State) : (hostTurn s).cfg = s.cfg := by
  cases hx : s.hostStmt with
  | none => rw [hostTurn_none hx]
  | some x => rw [hostTurn_some hx, runStmt_cfg]

/-- Settles O10: each of the four ways a step goes keeps the parameter. -/
theorem stepKeepsBufferSize : Obligations.StepKeepsBufferSize := by
  intro s t h
  rcases step_cases h with ⟨_, rfl⟩ | ⟨_, hcore⟩ | ⟨_, rfl⟩ | ⟨_, rfl⟩
  · rfl
  · exact (coreTurn_keepsRest hcore).cfg
  · exact hostTurn_cfg s.popTurn
  · exact resetTurn_cfg s.popTurn

end Sys2Proof.Machine
end

section
/-! PROOFS. The invariant over a step (spec/10_state.md R26, R30; spec/20_memory.md R64; spec/41_sponge.md R146, R147):
each operation of the machine keeps it, then each way a command ends, each agent's turn and the step. -/

namespace Sys2Proof.Machine

/-- `t` differs from `s` in nothing the invariant speaks of, but that DONE may be cleared. -/
structure KeepsInvFields (s t : State) : Prop where
  buf : t.buf = s.buf
  cfg : t.cfg = s.cfg
  pending : t.pending = s.pending
  cmdReg : t.cmdReg = s.cmdReg
  err : t.err = s.err
  authok : t.authok = s.authok
  done : t.done = true → s.done = true

theorem Inv.of_keepsInvFields {s t : State} (h : Inv s) (k : KeepsInvFields s t) : Inv t where
  canonical := k.buf ▸ h.canonical
  inBuffer := k.buf ▸ k.cfg ▸ h.inBuffer
  size := k.cfg ▸ h.size
  pending := fun w hw => k.cmdReg.trans (h.pending w (k.pending ▸ hw))
  busy := fun hb => by
    obtain ⟨hdone, herr, hauth⟩ := h.busy (by rwa [State.busy, k.pending] at hb)
    exact ⟨Bool.eq_false_iff.mpr fun ht => by simp [k.done ht] at hdone, k.err.trans herr, k.authok.trans hauth⟩
  authok := fun ha => k.err.trans (h.authok (k.authok ▸ ha))

theorem Inv.withSponge {s : State} (h : Inv s) (x : Sponge) : Inv (s.withSponge x) :=
  h.of_keepsInvFields ⟨rfl, rfl, rfl, rfl, rfl, rfl, id⟩

theorem Inv.setWerr {s : State} (h : Inv s) : Inv s.setWerr :=
  h.of_keepsInvFields ⟨rfl, rfl, rfl, rfl, rfl, rfl, id⟩

theorem Inv.writeStatus {s : State} (h : Inv s) (d : Word) : Inv (s.writeStatus d) :=
  h.of_keepsInvFields ⟨rfl, rfl, rfl, rfl, rfl, rfl, fun hd => (Bool.and_eq_true_iff.mp hd).1⟩

theorem Inv.popTurn {s : State} (h : Inv s) : Inv s.popTurn :=
  h.of_keepsInvFields ⟨rfl, rfl, rfl, rfl, rfl, rfl, id⟩

theorem Inv.hostGoes {s : State} (h : Inv s) (r : Reply) (pos : Nat) : Inv (s.hostGoes r pos) :=
  h.of_keepsInvFields ⟨rfl, rfl, rfl, rfl, rfl, rfl, id⟩

/-- A store inside the buffer keeps the canonical form and lists no offset outside. -/
theorem Inv.memWrite {s : State} (h : Inv s) {a : Nat} {v : List Byte} (hv : a + v.length ≤ s.cfg.bufBytes) :
    Inv (s.memWrite a v) where
  canonical := store_wf h.canonical a v
  inBuffer := store_below h.inBuffer a v hv
  size := h.size
  pending := h.pending
  busy := h.busy
  authok := h.authok

/-- Acceptance makes PENDING and CMDREG equal and clears what BUSY = 1 excludes (41_sponge.md R146). -/
theorem Inv.issue {s : State} (h : Inv s) (w : Word) : Inv (s.issue w) where
  canonical := h.canonical
  inBuffer := h.inBuffer
  size := h.size
  pending := fun _ hw => Option.some.inj hw
  busy := fun _ => ⟨rfl, rfl, rfl⟩
  authok := fun _ => rfl

/-- A completion leaves nothing in flight; what remains to say is that AUTHOK comes with ERR = OK (42_aead.md R175). -/
theorem Inv.complete {s : State} (h : Inv s) {e : ErrCode} {auth : Bool} (hauth : auth = true → e = .ok) :
    Inv (s.complete e auth) where
  canonical := h.canonical
  inBuffer := h.inBuffer
  size := h.size
  pending := fun _ hw => by cases hw
  busy := fun hb => by cases hb
  authok := hauth

/-- A completion without AUTHOK, whatever the code. -/
theorem Inv.complete_noAuth {s : State} (h : Inv s) (e : ErrCode) : Inv (s.complete e false) :=
  h.complete fun hf => by cases hf

theorem Inv.finishFace {s : State} (h : Inv s) (auth : Bool) {y : List Byte}
    (hy : s.outPtr.toNat + y.length ≤ s.cfg.bufBytes) : Inv (s.finishFace auth y) :=
  ((h.withSponge Sponge.zero).memWrite hy).complete fun _ => rfl

/-- However a command ends, it keeps the invariant: a face command stores in the OUT region, which was checked. -/
theorem Ends.inv {i : Instr} {s t : State} (he : Ends i s t) (h : Inv s) : Inv t := by
  cases he with
  | checkError e => exact h.complete_noAuth e
  | output auth y hy hfit =>
    obtain ⟨_, _, hout, _⟩ := hfit
    exact h.finishFace auth (by rw [hy]; exact hout)
  | authFail => exact (h.withSponge Sponge.zero).complete_noAuth .authFail
  | permuted n => exact (h.withSponge (permute n s.sponge)).complete_noAuth .ok
  | cleared =>
    have hcleared : KeepsInvFields s { s with sponge := Sponge.zero, key0 := 0, key1 := 0, nonce0 := 0, nonce1 := 0 } :=
      ⟨rfl, rfl, rfl, rfl, rfl, rfl, id⟩
    exact (h.of_keepsInvFields hcleared).complete_noAuth .ok

theorem coreTurn_inv {s t : State} (h : Inv s) (ht : coreTurn s = .next t) : Inv t := by
  rcases coreTurn_cases ht with ⟨_, rfl⟩ | ⟨_, _, _, _, rfl⟩ | ⟨_, _, _, _, hexec⟩
  · exact h
  · exact h.complete_noAuth .unsupported
  · exact (exec_cases hexec).inv h

/-- A guarded write keeps the invariant if its effect does. -/
theorem Inv.whenIdle {s t : State} (h : Inv s) (ht : Inv t) : Inv (s.whenIdle t) := by
  cases hb : s.busy with
  | true => rw [whenIdle_busy hb]; exact h.setWerr
  | false => rw [whenIdle_idle hb]; exact ht

theorem writeReg_inv {s : State} (h : Inv s) (r : Reg) (d : Word) : Inv (s.writeReg r d) := by
  cases r with
  | ctrl => exact h.of_keepsInvFields ⟨rfl, rfl, rfl, rfl, rfl, rfl, id⟩
  | status => exact h.writeStatus d
  | cmd => exact h.whenIdle (h.issue d)
  | _ => exact h.whenIdle (h.of_keepsInvFields ⟨rfl, rfl, rfl, rfl, rfl, rfl, id⟩)

/-- A word of the buffer window lies inside the buffer, since BUF_BYTES is a multiple of 8 (20_memory.md R61, R65). -/
theorem bufWord_inside {c : Config} (hc : c.valid) {off : Offset} {k : Nat} (h : targetOf c.bufBytes off = .buf k) :
    k + 8 ≤ c.bufBytes := by
  obtain ⟨hdvd, _, _⟩ := hc
  obtain ⟨halign, hoff, hlt⟩ := targetOf_buf.mp h
  omega

theorem hostWrite_inv {s : State} (h : Inv s) (off : Offset) (d : Word) : Inv (s.hostWrite off d).1 := by
  cases ht : targetOf s.cfg.bufBytes off with
  | reg r => rw [hostWrite_reg d (targetOf_reg.mp ht)]; exact writeReg_inv h r d
  | buf k => rw [hostWrite_buf d ht]; exact h.whenIdle (h.memWrite (bufWord_inside h.size ht))
  | nothing => rw [hostWrite_nothing d ht]; exact h

theorem runStmt_inv {s : State} (h : Inv s) (x : HostStmt) : Inv (s.runStmt x) := by
  cases x with
  | wr off d => exact (hostWrite_inv h off d).hostGoes _ _
  | rd off | bne off mask value label => exact h.hostGoes _ _

theorem hostTurn_inv {s : State} (h : Inv s) : Inv (hostTurn s) := by
  cases hx : s.hostStmt with
  | none => rw [hostTurn_none hx]; exact h
  | some x => rw [hostTurn_some hx]; exact runStmt_inv h x

/-- Reset empties the buffer's list and leaves nothing in flight; only the size of the buffer has to be kept. -/
theorem resetTurn_inv {s : State} (h : s.cfg.valid) : Inv (resetTurn s) where
  canonical := List.Pairwise.nil
  inBuffer := fun _ hc => by cases hc
  size := h
  pending := fun _ hw => by cases hw
  busy := fun hb => by cases hb
  authok := fun _ => rfl

/-- Settles O8: each of the four ways a step goes keeps the invariant. The list form of the buffer is the model's
choice (log entry 2). -/
theorem stepKeepsInvariant : Obligations.StepKeepsInvariant := by
  intro s t h hstep
  rcases step_cases hstep with ⟨_, rfl⟩ | ⟨_, hcore⟩ | ⟨_, rfl⟩ | ⟨_, rfl⟩
  · exact h
  · exact coreTurn_inv h.popTurn hcore
  · exact hostTurn_inv h.popTurn
  · exact resetTurn_inv h.popTurn.size

end Sys2Proof.Machine
end

section
/-! PROOFS. The frame of a command (spec/41_sponge.md R147, R151; spec/70_reset_and_hazards.md R279), beside
`Ends.keepsRest`. -/

namespace Sys2Proof.Machine

/-- Only CLEAR writes the key and the nonce (10_state.md R22, R23). -/
theorem Ends.keepsKeys {i : Instr} {s t : State} (h : Ends i s t) (hi : i ≠ .clear) : KeepsKeys s t := by
  cases h with
  | checkError e => exact (complete_onlyStatus s e).keys
  | output auth y hy => exact (finishFace_done s auth y hy).keys
  | authFail | permuted => exact ⟨rfl, rfl, rfl, rfl⟩
  | cleared hclear => exact absurd hclear hi

/-- However a command ends, it is completed: BUSY = 0 and DONE = 1. -/
theorem Ends.idle_done {i : Instr} {s t : State} (h : Ends i s t) : t.busy = false ∧ t.done = true := by
  cases h <;> exact ⟨rfl, rfl⟩

/-- Settles O15: every way a command ends keeps what no command writes. -/
theorem commandsKeepOtherRegisters : Obligations.CommandsKeepOtherRegisters := by
  intro i s t h
  have hends := exec_cases h
  exact ⟨hends.keepsRest, hends.keepsKeys, hends.idle_done⟩

end Sys2Proof.Machine
end

section
/-! PROOFS. The registers at the host port (spec/10_state.md R20 to R27): what a read of each register depends on and
what a write of each changes, stated at the register's own offset `Reg.off`. -/

namespace Sys2Proof.Machine

@[simp] theorem Reg.off_toNat (r : Reg) : r.off.toNat = r.offset := by
  obtain ⟨hlt, _⟩ := r.offset_lt
  exact (BitVec.toNat_ofNat _ _).trans (Nat.mod_eq_of_lt (by omega))

theorem hostRead_off (s : State) (r : Reg) : s.hostRead r.off = (s.readReg r, .okay) :=
  hostRead_reg r.off_toNat

theorem hostWrite_off (s : State) (r : Reg) (d : Word) : s.hostWrite r.off d = (s.writeReg r d, .okay) :=
  hostWrite_reg d r.off_toNat

theorem hidden_busy {s : State} (h : s.busy = true) (w : Word) : s.hidden w = 0 := by simp [State.hidden, h]

theorem hidden_idle {s : State} (h : s.busy = false) (w : Word) : s.hidden w = w := by simp [State.hidden, h]

/-- A register whose read BUSY = 1 hides: 0 while busy, its word while idle (R20). -/
theorem hostRead_hidden_busy {s : State} (h : s.busy = true) (r : Reg) {w : Word} (hr : s.readReg r = s.hidden w) :
    s.hostRead r.off = (0, .okay) := by
  rw [hostRead_off, hr, hidden_busy h]

theorem hostRead_hidden_idle {s : State} (h : s.busy = false) (r : Reg) {w : Word} (hr : s.readReg r = s.hidden w) :
    s.hostRead r.off = (w, .okay) := by
  rw [hostRead_off, hr, hidden_idle h]

/-- A guarded write while BUSY = 0 has its whole effect and no other. -/
theorem hostWrite_guarded_idle {s t : State} (h : s.busy = false) (r : Reg) (d : Word)
    (hr : s.writeReg r d = s.whenIdle t) : s.hostWrite r.off d = (t, .okay) := by
  rw [hostWrite_off, hr, whenIdle_idle h]

/-- Settles O55: each access at its register's own offset, by the port's rules for the kinds of register. -/
theorem registerAccessIsExact : Obligations.RegisterAccessIsExact := by
  intro s d
  refine ⟨hostRead_off s .ctrl, hostRead_off s .cmd, hostRead_off s .nonce0, hostRead_off s .nonce1,
    hostRead_off s .auxPtr, hostRead_off s .auxLen, hostRead_off s .inPtr, hostRead_off s .inLen,
    hostRead_off s .outPtr, hostRead_off s .outLen, hostWrite_off s .ctrl d, fun h => ?_⟩
  exact ⟨hostRead_hidden_idle h .s0 rfl, hostRead_hidden_idle h .s1 rfl, hostRead_hidden_idle h .s2 rfl,
    hostRead_hidden_idle h .s3 rfl, hostRead_hidden_idle h .s4 rfl,
    hostWrite_guarded_idle h .s0 d rfl, hostWrite_guarded_idle h .s1 d rfl, hostWrite_guarded_idle h .s2 d rfl,
    hostWrite_guarded_idle h .s3 d rfl, hostWrite_guarded_idle h .s4 d rfl,
    hostWrite_guarded_idle h .key0 d rfl, hostWrite_guarded_idle h .key1 d rfl,
    hostWrite_guarded_idle h .nonce0 d rfl, hostWrite_guarded_idle h .nonce1 d rfl,
    hostWrite_guarded_idle h .auxPtr d rfl, hostWrite_guarded_idle h .auxLen d rfl,
    hostWrite_guarded_idle h .inPtr d rfl, hostWrite_guarded_idle h .inLen d rfl,
    hostWrite_guarded_idle h .outPtr d rfl, hostWrite_guarded_idle h .outLen d rfl⟩

/-- A HostRead depends on the parameter, what the registers read and what the buffer words read. -/
theorem hostRead_congr {s t : State} (hcfg : t.cfg = s.cfg) (hreg : ∀ r, t.readReg r = s.readReg r)
    (hbuf : ∀ k, t.readBufWord k = s.readBufWord k) (off : Offset) : t.hostRead off = s.hostRead off := by
  simp only [State.hostRead, hcfg, hreg, hbuf]

theorem readBufWord_busy {s : State} (h : s.busy = true) (k : Nat) : s.readBufWord k = 0 := hidden_busy h _

/-- While BUSY = 1 what is hidden does not show in what is read. -/
theorem hidden_congr_busy {s t : State} (hs : s.busy = true) (ht : t.busy = true) (v w : Word) :
    t.hidden v = s.hidden w := by
  rw [hidden_busy hs, hidden_busy ht]

/-- No register reads the key (R22). -/
theorem readReg_withKey (s : State) (k0 k1 : Word) (r : Reg) :
    State.readReg { s with key0 := k0, key1 := k1 } r = s.readReg r := by
  cases r <;> rfl

/-- No word of the buffer reads the key. -/
theorem readBufWord_withKey (s : State) (k0 k1 : Word) (k : Nat) :
    State.readBufWord { s with key0 := k0, key1 := k1 } k = s.readBufWord k := by
  have hmem : State.memRead { s with key0 := k0, key1 := k1 } k 8 = s.memRead k 8 :=
    memRead_congr fun _ _ => byteAt_congr rfl rfl _
  exact congrArg (fun v => s.hidden (le64 v)) hmem

/-- While BUSY = 1 no register reads S or the buffer: S[0] to S[4] read 0 and the others name other fields. -/
theorem readReg_withSpongeBuf_busy {s : State} (h : s.busy = true) (x : Sponge) (b : Memory) (r : Reg) :
    State.readReg { s with sponge := x, buf := b } r = s.readReg r := by
  cases r with
  | s0 | s1 | s2 | s3 | s4 => exact hidden_congr_busy h h _ _
  | _ => rfl

/-- While BUSY = 1 every word of the buffer reads 0 (20_memory.md R65). -/
theorem readBufWord_withSpongeBuf_busy {s : State} (h : s.busy = true) (x : Sponge) (b : Memory) (k : Nat) :
    State.readBufWord { s with sponge := x, buf := b } k = s.readBufWord k :=
  hidden_congr_busy h h _ _

/-- Settles O45: a HostRead depends on what registers and buffer words read, and those do not depend on what is
hidden. -/
theorem busyReadsHideTheState : Obligations.BusyReadsHideTheState := by
  intro s x b k0 k1 off
  refine ⟨hostRead_off s .key0, hostRead_off s .key1, fun h => ?_, ?_, fun h => ?_⟩
  · exact ⟨hostRead_hidden_busy h .s0 rfl, hostRead_hidden_busy h .s1 rfl, hostRead_hidden_busy h .s2 rfl,
      hostRead_hidden_busy h .s3 rfl, hostRead_hidden_busy h .s4 rfl,
      fun k hk => by rw [hostRead_buf hk, readBufWord_busy h]⟩
  · exact hostRead_congr rfl (readReg_withKey s k0 k1) (readBufWord_withKey s k0 k1) off
  · exact hostRead_congr (s := s) (t := { s with sponge := x, buf := b }) rfl (readReg_withSpongeBuf_busy h x b)
      (readBufWord_withSpongeBuf_busy h x b) off

/-- The value of CTRL with IE from bit 0 of the data: the data with its reserved bits 0 (R25). -/
theorem ofNat_toNat_getLsbD_zero (d : Word) : BitVec.ofNat 64 (d.getLsbD 0).toNat = d &&& 1 := by
  rw [show (1 : Word) = 1#64 from rfl, BitVec.and_one_eq_setWidth_ofBool_getLsbD]
  cases d.getLsbD 0 <;> rfl

/-- A region register reads the data it was written with, bits 63:32 zero (R24). -/
theorem zeroExtend_regionValue (d : Word) : (regionValue d).zeroExtend 64 = d &&& 0xFFFFFFFF := by
  apply BitVec.eq_of_toNat_eq
  have hmask : d.toNat &&& 0xFFFFFFFF = d.toNat % 2 ^ 32 := Nat.and_two_pow_sub_one_eq_mod d.toNat 32
  have hvalue : (regionValue d).toNat = d.toNat % 2 ^ 32 := by simp [regionValue]
  rw [BitVec.toNat_setWidth, hvalue, BitVec.toNat_and]
  exact (Nat.mod_eq_of_lt (by omega)).trans hmask.symm

/-- A write to a register while idle updates what that register reads and no other: but for CMD, it changes one
field or, of STATUS, bits that only STATUS reads. -/
theorem readReg_writeReg {s : State} (h : s.busy = false) {r : Reg} (d : Word) (hr : r ≠ .cmd) :
    (s.writeReg r d).readReg = Function.update s.readReg r ((s.writeReg r d).readReg r) := by
  funext q
  cases r with
  | cmd => exact absurd rfl hr
  | ctrl | status => cases q <;> rfl
  | _ =>
    rw [State.writeReg, whenIdle_idle h]
    cases q <;> rfl

theorem readReg_writeReg_of_ne {s : State} (h : s.busy = false) {q r : Reg} (d : Word) (hr : r ≠ .cmd) (hq : q ≠ r) :
    (s.writeReg r d).readReg q = s.readReg q := by
  rw [readReg_writeReg h d hr, Function.update_of_ne hq]

/-- S[0] to S[4] and the nonce read back the word written while idle (R20, R23). -/
theorem readReg_writeReg_word {s : State} (h : s.busy = false) {r : Reg} (d : Word)
    (hr : r ∈ [Reg.s0, .s1, .s2, .s3, .s4, .nonce0, .nonce1]) : (s.writeReg r d).readReg r = d := by
  cases r with
  | s0 | s1 | s2 | s3 | s4 =>
    rw [State.writeReg, whenIdle_idle h]
    exact hidden_idle h d
  | nonce0 | nonce1 =>
    rw [State.writeReg, whenIdle_idle h]
    rfl
  | _ => simp at hr

/-- The region registers read back bits 31:0 of the word written while idle (R24). -/
theorem readReg_writeReg_region {s : State} (h : s.busy = false) {r : Reg} (d : Word)
    (hr : r ∈ [Reg.auxPtr, .auxLen, .inPtr, .inLen, .outPtr, .outLen]) :
    (s.writeReg r d).readReg r = d &&& 0xFFFFFFFF := by
  cases r with
  | auxPtr | auxLen | inPtr | inLen | outPtr | outLen =>
    rw [State.writeReg, whenIdle_idle h]
    exact zeroExtend_regionValue d
  | _ => simp at hr

/-- The key cannot be read back, but it holds the word written while idle (R22). -/
theorem writeReg_key0 {s : State} (h : s.busy = false) (d : Word) : (s.writeReg .key0 d).key0 = d := by
  rw [State.writeReg, whenIdle_idle h]

theorem writeReg_key1 {s : State} (h : s.busy = false) (d : Word) : (s.writeReg .key1 d).key1 = d := by
  rw [State.writeReg, whenIdle_idle h]

/-- Settles O48, through the register that each offset names. -/
theorem registersReadBack : Obligations.RegistersReadBack := by
  intro s r d
  simp only [hostWrite_off, hostRead_off, Prod.mk.injEq, and_true]
  refine ⟨?_, fun h => ⟨readReg_writeReg_word h d, readReg_writeReg_region h d, ?_, ?_,
    fun hr q hq => readReg_writeReg_of_ne h d hr hq⟩⟩
  · rintro rfl
    exact ofNat_toNat_getLsbD_zero d
  · rintro rfl
    exact writeReg_key0 h d
  · rintro rfl
    exact writeReg_key1 h d

end Sys2Proof.Machine
end

section
/-! PROOFS. STATUS at the host port (spec/10_state.md R26; spec/60_exceptions.md R240): the word as a sum of its
fields, then each field read from the sum. -/

namespace Sys2Proof.Machine

theorem ErrCode.code_le (e : ErrCode) : e.code ≤ 4 := by cases e <;> decide

/-- Each field of STATUS fits the bits it has. -/
theorem statusFields_le (s : State) :
    s.busy.toNat ≤ 1 ∧ s.done.toNat ≤ 1 ∧ s.werr.toNat ≤ 1 ∧ s.err.code ≤ 4 ∧ s.authok.toNat ≤ 1 :=
  ⟨s.busy.toNat_le, s.done.toNat_le, s.werr.toNat_le, s.err.code_le, s.authok.toNat_le⟩

/-- The sum of the fields, no two in one bit. -/
theorem statusWord_toNat (s : State) : s.statusWord.toNat =
    s.busy.toNat + 2 * s.done.toNat + 4 * s.werr.toNat + 16 * s.err.code + 256 * s.authok.toNat := by
  have hle := statusFields_le s
  exact (BitVec.toNat_ofNat _ _).trans (Nat.mod_eq_of_lt (by omega))

theorem statusWord_lt (s : State) : s.statusWord.toNat < 2 ^ 9 := by
  have hle := statusFields_le s
  rw [statusWord_toNat]
  omega

/-- A bit of a word that is a field's number is the field. -/
theorem getLsbD_of_div_mod {w : Word} {i : Nat} {b : Bool} (h : w.toNat / 2 ^ i % 2 = b.toNat) : w.getLsbD i = b := by
  rw [← BitVec.testBit_toNat, Nat.testBit_eq_decide_div_mod_eq, h]
  cases b <;> rfl

/-- Bits 7:4 are the code of ERR (60_exceptions.md R240). -/
theorem statusWord_err (s : State) : s.statusWord.extractLsb' 4 4 = BitVec.ofNat 4 s.err.code := by
  have hle := statusFields_le s
  apply BitVec.eq_of_toNat_eq
  rw [BitVec.extractLsb'_toNat, statusWord_toNat, Nat.shiftRight_eq_div_pow, BitVec.toNat_ofNat]
  omega

/-- The bits of STATUS that hold one field each, bit 3, and the bits above AUTHOK. -/
theorem statusWord_bits (s : State) :
    s.statusWord.getLsbD 0 = s.busy ∧ s.statusWord.getLsbD 1 = s.done ∧ s.statusWord.getLsbD 2 = s.werr ∧
      s.statusWord.getLsbD 3 = false ∧ s.statusWord.getLsbD 8 = s.authok := by
  have hle := statusFields_le s
  have hsum := statusWord_toNat s
  refine ⟨getLsbD_of_div_mod ?_, getLsbD_of_div_mod ?_, getLsbD_of_div_mod ?_,
    getLsbD_of_div_mod (Eq.trans ?_ Bool.toNat_false.symm), getLsbD_of_div_mod ?_⟩ <;> omega

theorem statusWord_high (s : State) {i : Nat} (h : 9 ≤ i) : s.statusWord.getLsbD i = false := by
  rw [← BitVec.testBit_toNat]
  exact Nat.testBit_lt_two_pow ((statusWord_lt s).trans_le (Nat.pow_le_pow_right (by decide) h))

/-- Settles O46, from the fields of the word that a read of STATUS gives. -/
theorem statusBitsAndClearing : Obligations.StatusBitsAndClearing := by
  intro s d
  have hread : s.hostRead 0x08 = (s.statusWord, .okay) := hostRead_off s .status
  obtain ⟨hbusy, hdone, hwerr, hzero, hauth⟩ := statusWord_bits s
  rw [hread, statusWord_err]
  refine ⟨rfl, hbusy, hdone, hwerr, hzero, ?_, ?_, ?_, ?_, ?_, ?_, hauth, fun i => statusWord_high s,
    hostWrite_off s .status d⟩
  · have hle := s.err.code_le
    exact (BitVec.toNat_ofNat _ _).trans (Nat.mod_eq_of_lt (by omega))
  all_goals
    intro herr
    rw [herr]
    rfl

end Sys2Proof.Machine
end

section
/-! PROOFS. The converters (spec/20_memory.md R68, R69): the bits of LE64, whose byte j is the j-th of the sequence,
and the two inverse laws. -/

namespace Sys2Proof.Machine

/-- Byte j of BYTES8 (R69). -/
theorem bytes8_getElem? (w : Word) {j : Nat} (h : j < 8) : (bytes8 w)[j]? = some (w.extractLsb' (8 * j) 8) := by
  interval_cases j <;> rfl

/-- Bit i of LE64 is bit i % 8 of byte i / 8, and 0 past the sequence's end (R68). -/
theorem le64_getLsbD (b : List Byte) {i : Nat} (h : i < 64) :
    (le64 b).getLsbD i = (b.getD (i / 8) 0).getLsbD (i % 8) := by
  induction b generalizing i with
  | nil => simp [le64]
  | cons x xs ih =>
    rw [le64_cons, BitVec.getLsbD_or, BitVec.getLsbD_shiftLeft]
    by_cases hi : i < 8
    · simp [hi, h, Nat.div_eq_of_lt hi, Nat.mod_eq_of_lt hi]
    · have hx : x.getLsbD i = false := BitVec.getLsbD_of_ge x i (by omega)
      have hdiv : i / 8 = (i - 8) / 8 + 1 := by omega
      have hmod : i % 8 = (i - 8) % 8 := by omega
      rw [hdiv, hmod, List.getD_cons_succ, ← ih (by omega)]
      simp [hi, h, hx]

/-- Byte j of a word of LE64 is byte j of the sequence (R68). -/
theorem le64_extractLsb' (b : List Byte) {j : Nat} (h : j < 8) : (le64 b).extractLsb' (8 * j) 8 = b.getD j 0 := by
  apply BitVec.eq_of_getLsbD_eq
  intro i hi
  have hdiv : (8 * j + i) / 8 = j := by omega
  have hmod : (8 * j + i) % 8 = i := by omega
  rw [BitVec.getLsbD_extractLsb', le64_getLsbD b (by omega), hdiv, hmod]
  simp [hi]

@[simp] theorem le64_bytes8 (w : Word) : le64 (bytes8 w) = w := by
  apply BitVec.eq_of_getLsbD_eq
  intro i hi
  rw [le64_getLsbD _ hi, List.getD_eq_getElem?_getD, bytes8_getElem? w (by omega), Option.getD_some,
    BitVec.getLsbD_extractLsb', Nat.div_add_mod]
  simp [Nat.mod_lt]

theorem bytes8_le64 {b : List Byte} (h : b.length = 8) : bytes8 (le64 b) = b := by
  apply List.ext_getElem (by rw [bytes8_length, h])
  intro j hj hb
  have hbyte := bytes8_getElem? (le64 b) hj
  rw [le64_extractLsb' b hj, List.getD_eq_getElem b 0 hb, List.getElem?_eq_getElem hj] at hbyte
  exact Option.some.inj hbyte

/-- Settles O34, byte by byte through the bits of LE64. -/
theorem convertersAreInverse : Obligations.ConvertersAreInverse :=
  ⟨fun w => ⟨le64_bytes8 w, fun _ hj => bytes8_getElem? w hj⟩, fun _ hb => bytes8_le64 hb⟩

end Sys2Proof.Machine
end

section
/-! PROOFS. The address map (spec/20_memory.md R61, R62): the offsets that name nothing are the unmapped ones. -/

namespace Sys2Proof.Machine

/-- The slots of the register window that hold no register (R62). -/
theorem Reg.offset_slot (r : Reg) : r.offset < 0xA0 ∧ r.offset ≠ 0x18 ∧ r.offset ≠ 0x48 := by
  cases r <;> decide

/-- Every other slot below 0xA0 holds one: slots 3 and 9 are those at 0x18 and 0x48. -/
theorem regAt_slot_isSome : ∀ k < 20, k ≠ 3 → k ≠ 9 → (regAt (8 * k)).isSome = true := by decide

theorem exists_reg_offset {n : Nat} (halign : n % 8 = 0) (hlt : n < 0xA0) (h3 : n ≠ 0x18) (h9 : n ≠ 0x48) :
    ∃ r : Reg, n = r.offset := by
  have hslot := regAt_slot_isSome (n / 8) (by omega) (by omega) (by omega)
  rw [show 8 * (n / 8) = n by omega] at hslot
  exact (Option.isSome_iff_exists.mp hslot).imp fun _ hr => regAt_eq_some.mp hr

/-- What names nothing is unmapped, and the other way round (R61, R62). -/
theorem targetOf_nothing {n : Nat} {off : Offset} : targetOf n off = .nothing ↔ Unmapped n off.toNat := by
  constructor
  · intro h
    by_contra hmapped
    obtain ⟨halign, h3, h9, hgap, hend⟩ : off.toNat % 8 = 0 ∧ off.toNat ≠ 0x18 ∧ off.toNat ≠ 0x48 ∧
        (off.toNat < 0xA0 ∨ 0x10000 ≤ off.toNat) ∧ off.toNat < 0x10000 + n := by omega
    rcases hgap with hreg | hbuf
    · obtain ⟨r, hr⟩ := exists_reg_offset halign hreg h3 h9
      rw [targetOf_reg.mpr hr] at h
      cases h
    · rw [targetOf_buf (k := off.toNat - 0x10000) |>.mpr ⟨halign, by omega, by omega⟩] at h
      cases h
  · intro h
    cases ht : targetOf n off with
    | nothing => rfl
    | reg r =>
      have hoff := targetOf_reg.mp ht
      obtain ⟨_, halign⟩ := r.offset_lt
      obtain ⟨hlt, h3, h9⟩ := r.offset_slot
      omega
    | buf k =>
      obtain ⟨halign, hoff, hlt⟩ := targetOf_buf.mp ht
      omega

theorem hostRead_okay {s : State} {off : Offset} (h : targetOf s.cfg.bufBytes off ≠ .nothing) :
    (s.hostRead off).2 = .okay := by
  cases ht : targetOf s.cfg.bufBytes off with
  | reg r => rw [hostRead_reg (targetOf_reg.mp ht)]
  | buf k => rw [hostRead_buf ht]
  | nothing => exact absurd ht h

theorem hostWrite_okay {s : State} {off : Offset} (d : Word) (h : targetOf s.cfg.bufBytes off ≠ .nothing) :
    (s.hostWrite off d).2 = .okay := by
  cases ht : targetOf s.cfg.bufBytes off with
  | reg r => rw [hostWrite_reg d (targetOf_reg.mp ht)]
  | buf k => rw [hostWrite_buf d ht]
  | nothing => exact absurd ht h

/-- Settles O42, by what the offset names. -/
theorem errorResponsesChangeNothing : Obligations.ErrorResponsesChangeNothing := by
  intro s off d
  rw [← targetOf_nothing]
  exact ⟨fun h => ⟨hostRead_nothing h, hostWrite_nothing d h⟩, fun h => ⟨hostRead_okay h, hostWrite_okay d h⟩⟩

end Sys2Proof.Machine
end

section
/-! PROOFS. The buffer window (spec/20_memory.md R65): the words the host sees while idle. -/

namespace Sys2Proof.Machine

theorem readBufWord_idle {s : State} (h : s.busy = false) (a : Nat) : s.readBufWord a = le64 (s.memRead a 8) :=
  hidden_idle h _

theorem writeBufWord_busy {s : State} (h : s.busy = true) (a : Nat) (d : Word) : s.writeBufWord a d = s.setWerr :=
  whenIdle_busy h _

theorem writeBufWord_idle {s : State} (h : s.busy = false) (a : Nat) (d : Word) :
    s.writeBufWord a d = s.memWrite a (bytes8 d) :=
  whenIdle_idle h _

/-- Lane j of the word at `a` is the buffer byte at `a + j`. -/
theorem le64_memRead_lane (s : State) (a : Nat) {j : Nat} (h : j < 8) :
    (le64 (s.memRead a 8)).extractLsb' (8 * j) 8 = s.byteAt (a + j) := by
  have hj : j < (s.memRead a 8).length := by rwa [memRead_length]
  rw [le64_extractLsb' _ h, List.getD_eq_getElem _ 0 hj, memRead_getElem]

/-- The byte that a word's store leaves at `a + j` is lane j of the word. -/
theorem byteAt_memWrite_bytes8 (s : State) (a : Nat) (d : Word) {j : Nat} (h : j < 8) :
    (s.memWrite a (bytes8 d)).byteAt (a + j) = d.extractLsb' (8 * j) 8 := by
  have hbyte := bytes8_getElem? d h
  rw [List.getElem?_eq_getElem (show j < (bytes8 d).length from h)] at hbyte
  exact (byteAt_memWrite_inside s h).trans (Option.some.inj hbyte)

/-- A word written while idle reads back. -/
theorem readBufWord_memWrite {s : State} (h : s.busy = false) (a : Nat) (d : Word) :
    (s.memWrite a (bytes8 d)).readBufWord a = d := by
  have hread : (s.memWrite a (bytes8 d)).memRead a 8 = bytes8 d := memRead_memWrite s a (bytes8 d)
  rw [readBufWord_idle (s := s.memWrite a (bytes8 d)) h, hread, le64_bytes8]

/-- Settles O43: the offset names the buffer word at 8k, which BUSY hides and guards. -/
theorem bufferWindowLanes : Obligations.BufferWindowLanes := by
  intro s k off d _ hk hoff
  have ht : targetOf s.cfg.bufBytes off = .buf (8 * k) := targetOf_buf.mpr ⟨by omega, hoff, by omega⟩
  rw [hostRead_buf ht, hostWrite_buf d ht]
  constructor
  · intro hb
    rw [readBufWord_busy hb, writeBufWord_busy hb]
    exact ⟨rfl, rfl⟩
  · intro hb
    rw [readBufWord_idle hb, writeBufWord_idle hb]
    have hback : (s.memWrite (8 * k) (bytes8 d)).hostRead off = (d, .okay) := by
      rw [hostRead_buf (s := s.memWrite (8 * k) (bytes8 d)) ht, readBufWord_memWrite hb]
    exact ⟨rfl, fun _ hj => le64_memRead_lane s (8 * k) hj, rfl, fun _ hj => byteAt_memWrite_bytes8 s (8 * k) d hj,
      fun _ hout => byteAt_memWrite_outside s hout, rfl, hback⟩

end Sys2Proof.Machine
end

section
/-! PROOFS. The host's turn (spec/30_encoding.md R107; spec/20_memory.md R63, R74): a HostWrite neither reads nor
writes what is not the core's, and the two orders of a guarded write and the completion of the command in flight
(spec/60_exceptions.md R244, R248). -/

namespace Sys2Proof.Machine

/-- The state with what is not the core's replaced: the schedule and the host agent (log entries 3 and 4). -/
def State.withAgents (s : State) (x : List Turn) (h : HostAgent) : State := { s with schedule := x, host := h }

/-- A guarded write commutes with the replacement if its effect does. -/
theorem whenIdle_withAgents {s t u : State} {x : List Turn} {h : HostAgent} (hu : u = t.withAgents x h) :
    (s.withAgents x h).whenIdle u = (s.whenIdle t).withAgents x h := by
  cases hb : s.busy with
  | true => rw [whenIdle_busy hb, whenIdle_busy (s := s.withAgents x h) hb]; rfl
  | false => rw [whenIdle_idle hb, whenIdle_idle (s := s.withAgents x h) hb, hu]

theorem writeReg_withAgents (s : State) (x : List Turn) (h : HostAgent) (r : Reg) (d : Word) :
    (s.withAgents x h).writeReg r d = (s.writeReg r d).withAgents x h := by
  cases r with
  | ctrl | status => rfl
  | _ => exact whenIdle_withAgents rfl

/-- A HostWrite has the same effect and response whatever the schedule and the host agent are, and keeps both. -/
theorem hostWrite_withAgents (s : State) (x : List Turn) (h : HostAgent) (off : Offset) (d : Word) :
    (s.withAgents x h).hostWrite off d = ((s.hostWrite off d).1.withAgents x h, (s.hostWrite off d).2) := by
  cases ht : targetOf s.cfg.bufBytes off with
  | reg r =>
    have hr := targetOf_reg.mp ht
    rw [hostWrite_reg d hr, hostWrite_reg d hr, writeReg_withAgents]
  | buf k =>
    rw [hostWrite_buf d ht, hostWrite_buf (s := s.withAgents x h) d ht]
    exact congrArg (·, Resp.okay) (whenIdle_withAgents rfl)
  | nothing => rw [hostWrite_nothing d ht, hostWrite_nothing (s := s.withAgents x h) d ht]

@[simp] theorem hostWrite_host (s : State) (off : Offset) (d : Word) : (s.hostWrite off d).1.host = s.host :=
  congrArg (fun p : State × Resp => p.1.host) (hostWrite_withAgents s s.schedule s.host off d)

/-- The host's turn at a WR: the HostWrite, its response noted, and the next statement. -/
theorem hostTurn_wr {s : State} {off : Offset} {d : Word} (h : s.hostStmt = some (.wr off d)) :
    hostTurn s = { (s.hostWrite off d).1 with host :=
      { s.host with pos := s.host.pos + 1, log := s.host.log ++ [.written (s.hostWrite off d).2] } } := by
  rw [hostTurn_some h, State.runStmt, State.hostGoes, hostWrite_host]

/-- Settles O50, by the kind of statement. -/
theorem hostStatementIsOneTransaction : Obligations.HostStatementIsOneTransaction :=
  fun _ _ _ _ _ _ => ⟨hostTurn_wr, hostTurn_some, hostTurn_some⟩

theorem step_core {s : State} {xs : List Turn} (h : s.schedule = .core :: xs) : step s = coreTurn s.popTurn := by
  simp [step, nextTurn_cons h]

theorem step_host {s : State} {xs : List Turn} (h : s.schedule = .host :: xs) :
    step s = .next (hostTurn s.popTurn) := by
  simp [step, nextTurn_cons h]

/-- The core's turn with a command in flight answers a next state, in which nothing is in flight (41_sponge.md R147). -/
theorem coreTurn_completes {s : State} (h : s.busy = true) : ∃ t, coreTurn s = .next t ∧ t.busy = false := by
  obtain ⟨w, hw⟩ := Option.isSome_iff_exists.mp h
  cases hd : decode w with
  | command i =>
    obtain ⟨t, ht, hends⟩ := exec_ends i s
    obtain ⟨hidle, _⟩ := hends.idle_done
    exact ⟨t, (coreTurn_command hw hd).trans ht, hidle⟩
  | unsupported why => exact ⟨_, coreTurn_unsupported hw hd, rfl⟩

/-- A guarded write answers OKAY, and its effect, which BUSY = 1 replaces by WERR, leaves WERR alone
(60_exceptions.md R244). -/
theorem hostWrite_guarded {s : State} {off : Offset} (h : GuardedOffset s.cfg.bufBytes off) (d : Word) :
    ∃ t, s.hostWrite off d = (s.whenIdle t, .okay) ∧ t.werr = s.werr := by
  rcases h with ⟨r, ⟨hctrl, hstatus⟩, rfl⟩ | ⟨k, hk⟩
  · rw [hostWrite_off]
    cases r with
    | ctrl => exact absurd rfl hctrl
    | status => exact absurd rfl hstatus
    | _ => exact ⟨_, rfl, rfl⟩
  · exact ⟨s.memWrite k (bytes8 d), hostWrite_buf d hk, rfl⟩

theorem hostWrite_guarded_busy {s : State} {off : Offset} (hb : s.busy = true)
    (h : GuardedOffset s.cfg.bufBytes off) (d : Word) : s.hostWrite off d = (s.setWerr, .okay) := by
  obtain ⟨t, ht, _⟩ := hostWrite_guarded h d
  rw [ht, whenIdle_busy hb]

/-- A guarded write while idle answers OKAY and keeps WERR. -/
theorem hostWrite_guarded_idle_werr {s : State} {off : Offset} (hb : s.busy = false)
    (h : GuardedOffset s.cfg.bufBytes off) (d : Word) :
    (s.hostWrite off d).1.werr = s.werr ∧ (s.hostWrite off d).2 = .okay := by
  obtain ⟨t, ht, hwerr⟩ := hostWrite_guarded h d
  rw [ht, whenIdle_idle hb]
  exact ⟨hwerr, rfl⟩

/-- The step of a host that moves next and stands at a write: the write as in the state before the turn. -/
theorem step_host_wr {s : State} {rest : List Turn} {off : Offset} {d : Word} (hs : s.schedule = .host :: rest)
    (h : s.hostStmt = some (.wr off d)) :
    step s = .next { (s.hostWrite off d).1 with schedule := rest, host :=
      { s.host with pos := s.host.pos + 1, log := s.host.log ++ [.written (s.hostWrite off d).2] } } := by
  have hpop : s.popTurn = s.withAgents rest s.host := by rw [State.popTurn, hs]; rfl
  have hstmt : (s.withAgents rest s.host).hostStmt = some (.wr off d) := h
  rw [step_host hs, hpop, hostTurn_wr hstmt, hostWrite_withAgents]
  rfl

/-- Settles O53: with the core first the write finds the idle state that the completion leaves; with the host first it
is dropped. -/
theorem bothOrdersAdmitted : Obligations.BothOrdersAdmitted := by
  intro s rest off d hb hguard hstmt
  constructor
  · obtain ⟨t, ht, hidle⟩ := coreTurn_completes (s := { s with schedule := .host :: rest }) hb
    have hkeeps := coreTurn_keepsRest ht
    have hguard' : GuardedOffset t.cfg.bufBytes off := by rwa [hkeeps.cfg]
    have hstmt' : t.hostStmt = some (.wr off d) := by rwa [State.hostStmt, hkeeps.host]
    obtain ⟨hwerr, hresp⟩ := hostWrite_guarded_idle_werr hidle hguard' d
    have hhost := step_host_wr hkeeps.schedule hstmt'
    rw [hresp, hkeeps.host] at hhost
    refine ⟨t, _, (step_core rfl).trans ht, ht, hidle, hhost, rfl, hwerr.trans hkeeps.werr, ?_⟩
    rintro rfl
    show (t.hostWrite Reg.cmd.off d).1.pending = some d
    rw [hostWrite_guarded_idle hidle .cmd d rfl, State.issue_pending]
  · have hhost := step_host_wr (s := { s with schedule := .host :: rest }) rfl hstmt
    rw [hostWrite_guarded_busy (s := { s with schedule := .host :: rest }) hb hguard] at hhost
    exact hhost

end Sys2Proof.Machine
end

section
/-! PROOFS. The command word (spec/30_encoding.md R100 to R105): its fields as arithmetic on the word's value, and
the words that decode, read off both `decode` and `encode`. -/

namespace Sys2Proof

theorem wordOp_toNat (w : Word) : (wordOp w).toNat = w.toNat % 16 := by simp [wordOp]

theorem wordRound_toNat (w : Word) : (wordRound w).toNat = w.toNat / 16 % 16 := by
  simp [wordRound, Nat.shiftRight_eq_div_pow]

/-- The three checks of `decode`, in the order it makes them (R104). -/
theorem wordReserved_eq_zero {w : Word} : wordReserved w = 0#56 ↔ w.toNat < 256 := by
  have hw := w.isLt
  rw [← BitVec.toNat_inj, wordReserved, BitVec.extractLsb'_toNat, Nat.shiftRight_eq_div_pow, BitVec.toNat_zero]
  omega

theorem wordOp_eq_one {w : Word} : wordOp w = 1#4 ↔ w.toNat % 16 = 1 := by
  rw [← BitVec.toNat_inj, wordOp_toNat]
  rfl

theorem wordRound_eq_zero {w : Word} : wordRound w = 0#4 ↔ w.toNat / 16 % 16 = 0 := by
  rw [← BitVec.toNat_inj, wordRound_toNat, BitVec.toNat_zero]

/-- The opcodes of R103 other than PERM's, each with its command. -/
theorem plainCommand_eq_some {op : Nat} {i : Instr} : plainCommand op = some i ↔
    (op = 0x02 ∧ i = .aeadEnc) ∨ (op = 0x03 ∧ i = .aeadDec) ∨ (op = 0x04 ∧ i = .hash256) ∨
    (op = 0x05 ∧ i = .xof128) ∨ (op = 0x06 ∧ i = .cxof128) ∨ (op = 0x07 ∧ i = .mac) ∨
    (op = 0x08 ∧ i = .prf) ∨ (op = 0x09 ∧ i = .prfshort) ∨ (op = 0x0F ∧ i = .clear) := by
  constructor
  · intro h
    unfold plainCommand at h
    split at h <;> cases h <;> simp
  · rintro (⟨rfl, rfl⟩ | ⟨rfl, rfl⟩ | ⟨rfl, rfl⟩ | ⟨rfl, rfl⟩ | ⟨rfl, rfl⟩ | ⟨rfl, rfl⟩ | ⟨rfl, rfl⟩ | ⟨rfl, rfl⟩ |
      ⟨rfl, rfl⟩) <;> rfl

/-- OP is a plain command's exactly in these ranges (R103, R105). -/
theorem plainCommand_range {op : Nat} {i : Instr} (h : plainCommand op = some i) : 2 ≤ op ∧ op ≤ 9 ∨ op = 15 := by
  rcases plainCommand_eq_some.mp h with h | h | h | h | h | h | h | h | h <;> omega

/-- Decode by the fields: the reserved bits are 0, and OP is PERM, or R is 0 and OP names a plain command. -/
theorem decode_eq_command_iff_fields {w : Word} {i : Instr} : decode w = .command i ↔ w.toNat < 256 ∧
    (w.toNat % 16 = 1 ∧ i = .perm (w.toNat / 16 % 16) ∨
      w.toNat / 16 % 16 = 0 ∧ plainCommand (w.toNat % 16) = some i) := by
  rw [← wordReserved_eq_zero, ← wordOp_eq_one, ← wordRound_eq_zero, ← wordOp_toNat, ← wordRound_toNat, decode]
  by_cases hres : wordReserved w = 0#56
  · by_cases hop : wordOp w = 1#4
    · simp [hres, hop, plainCommand, eq_comm]
    · by_cases hround : wordRound w = 0#4
      · cases plainCommand (wordOp w).toNat with
        | none | some j => simp [hres, hop, hround]
      · simp [hres, hop, hround]
  · simp [hres]

/-- Decode by the value of the word (R103): 0x01 + 16 n for PERM n, else a plain command's opcode. -/
theorem decode_eq_command_iff {w : Word} {i : Instr} : decode w = .command i ↔
    (∃ n, n < 16 ∧ w.toNat = 0x01 + 16 * n ∧ i = .perm n) ∨ plainCommand w.toNat = some i := by
  rw [decode_eq_command_iff_fields]
  constructor
  · rintro ⟨hlt, ⟨hop, rfl⟩ | ⟨hround, hplain⟩⟩
    · exact .inl ⟨w.toNat / 16 % 16, by omega, by omega, rfl⟩
    · rw [show w.toNat % 16 = w.toNat by omega] at hplain
      exact .inr hplain
  · rintro (⟨n, hn, hw, rfl⟩ | hplain)
    · rw [hw, show (0x01 + 16 * n) / 16 % 16 = n by omega]
      exact ⟨by omega, .inl ⟨by omega, rfl⟩⟩
    · have hop := plainCommand_range hplain
      rw [show w.toNat % 16 = w.toNat by omega]
      exact ⟨by omega, .inr ⟨by omega, hplain⟩⟩

/-- The word of PERM n (R102, R103). -/
theorem encode_perm_toNat {n : Nat} (h : n < 16) : (encode (.perm n)).toNat = 0x01 + 16 * n := by
  have hshift : (BitVec.ofNat 64 n <<< 4).toNat = n <<< 4 := by
    rw [BitVec.toNat_shiftLeft, BitVec.toNat_ofNat, Nat.shiftLeft_eq, Nat.shiftLeft_eq]
    omega
  calc (encode (.perm n)).toNat = 1 ||| n <<< 4 := by rw [encode, BitVec.toNat_or, hshift]; rfl
    _ = n <<< 4 + 1 := by rw [Nat.or_comm, Nat.shiftLeft_add_eq_or_of_lt (by decide)]
    _ = 0x01 + 16 * n := by rw [Nat.shiftLeft_eq]; omega

/-- The opcode that names a plain command is its word (R103). -/
theorem encode_of_plainCommand {op : Nat} {i : Instr} (h : plainCommand op = some i) :
    i.wf = true ∧ (encode i).toNat = op := by
  rcases plainCommand_eq_some.mp h with ⟨rfl, rfl⟩ | ⟨rfl, rfl⟩ | ⟨rfl, rfl⟩ | ⟨rfl, rfl⟩ | ⟨rfl, rfl⟩ | ⟨rfl, rfl⟩ |
    ⟨rfl, rfl⟩ | ⟨rfl, rfl⟩ | ⟨rfl, rfl⟩ <;> exact ⟨rfl, rfl⟩

/-- Settles O1: PERM by the value of its word, every other command by its opcode. -/
theorem decodeOfEncode : Obligations.DecodeOfEncode := by
  intro i hwf
  rw [decode_eq_command_iff]
  cases i with
  | perm n =>
    have hn : n < 16 := of_decide_eq_true hwf
    exact .inl ⟨n, hn, encode_perm_toNat hn, rfl⟩
  | _ => exact .inr rfl

/-- Settles O2: the word's value is that of the command's word. -/
theorem encodeOfDecode : Obligations.EncodeOfDecode := by
  intro w i h
  rcases decode_eq_command_iff.mp h with ⟨n, hn, hw, rfl⟩ | hplain
  · exact ⟨decide_eq_true hn, BitVec.eq_of_toNat_eq ((encode_perm_toNat hn).trans hw.symm)⟩
  · obtain ⟨hwf, hword⟩ := encode_of_plainCommand hplain
    exact ⟨hwf, BitVec.eq_of_toNat_eq hword⟩

/-- Settles O3: `decode` by the value of the word, the plain opcodes listed. -/
theorem decodesExactlyTheOpcodeMap : Obligations.DecodesExactlyTheOpcodeMap := by
  intro w i
  rw [decode_eq_command_iff, plainCommand_eq_some]

/-- Settles O5: each word is its command's own. -/
theorem sampleWordsDecode : Obligations.SampleWordsDecode :=
  ⟨decodeOfEncode (.perm 12) rfl, decodeOfEncode .aeadEnc rfl, decodeOfEncode .hash256 rfl,
    decodeOfEncode .prfshort rfl, decodeOfEncode .clear rfl⟩

end Sys2Proof
end

section
/-! PROOFS. A word that does not decode, in flight (spec/30_encoding.md R104, R105; spec/60_exceptions.md R241). -/

namespace Sys2Proof.Machine

/-- No illegal word of R105 decodes: what decodes has bits 63:8 zero, and OP PERM or R zero and a plain opcode. -/
theorem decode_command_legal {w : Word} {i : Instr} (h : decode w = .command i) : w.toNat < 256 ∧
    (w.toNat % 16 = 1 ∨ w.toNat / 16 % 16 = 0 ∧ (2 ≤ w.toNat % 16 ∧ w.toNat % 16 ≤ 9 ∨ w.toNat % 16 = 15)) := by
  obtain ⟨hlt, ⟨hop, _⟩ | ⟨hround, hplain⟩⟩ := decode_eq_command_iff_fields.mp h
  · exact ⟨hlt, .inl hop⟩
  · exact ⟨hlt, .inr ⟨hround, plainCommand_range hplain⟩⟩

/-- Settles O4: an illegal word does not decode, and the core's turn then ends in a completion. -/
theorem illegalWordsCompleteUnsupported : Obligations.IllegalWordsCompleteUnsupported := by
  intro s w hw hillegal
  cases hd : decode w with
  | command i =>
    have hlegal := decode_command_legal hd
    omega
  | unsupported why => exact ⟨_, coreTurn_unsupported hw hd, complete_onlyStatus s .unsupported⟩

end Sys2Proof.Machine
end

section
/-! PROOFS. The host assembly (spec/30_encoding.md R107, R108): WAIT, and the sizes of the
expansions. -/

namespace Sys2Proof.Machine

/-- The bit that WAIT tests is BUSY (R108). -/
theorem statusWord_and_one_ne_zero (s : State) : s.statusWord &&& 0x1 ≠ 0x0 ↔ s.busy = true := by
  obtain ⟨hbusy, _⟩ := statusWord_bits s
  rw [← ofNat_toNat_getLsbD_zero, hbusy]
  cases s.busy <;> decide

/-- The host's turn at WAIT's statement: it stays while BUSY = 1 and goes to the next statement while BUSY = 0. -/
theorem hostTurn_wait_pos {s : State}
    (h : s.hostStmt = some (.bne (AsmTarget.reg .status).offset 0x1 0x0 s.host.pos)) :
    (hostTurn s).host.pos = if s.busy then s.host.pos else s.host.pos + 1 := by
  have hread : s.hostRead (AsmTarget.reg .status).offset = (s.statusWord, .okay) := hostRead_off s .status
  rw [hostTurn_some h, State.runStmt, hread]
  exact if_congr (statusWord_and_one_ne_zero s) rfl rfl

/-- Settles O51: the statement of WAIT names its own position. -/
theorem waitRepeatsWhileBusy : Obligations.WaitRepeatsWhileBusy := by
  intro s place x hx hstmt
  cases hx
  rw [hostTurn_wait_pos hstmt]
  exact ⟨fun hb => by rw [if_pos hb], fun hb => by simp [hb]⟩

/-- Filling up to a multiple of 8 adds zeros only (R108). -/
theorem fill8_eq (b : List Byte) : fill8 b = b ++ List.replicate (8 * ((b.length + 7) / 8) - b.length) 0 := by
  rw [fill8, zeroBytes, show (8 - b.length % 8) % 8 = 8 * ((b.length + 7) / 8) - b.length by omega]

theorem fill8_length (b : List Byte) : (fill8 b).length = 8 * ((b.length + 7) / 8) := by
  rw [fill8_eq, List.length_append, List.length_replicate]
  omega

/-- One word for each eight bytes, the last filled up (R108). -/
theorem blockWords_fill8_length (b : List Byte) : (blockWords (fill8 b)).length = (b.length + 7) / 8 := by
  rw [blockWords_length, fill8_length, Nat.mul_div_cancel_left _ (by decide)]

/-- Settles O52: one statement a word for the byte lines, and the statements written out for the others. -/
theorem expansionSizes : Obligations.ExpansionSizes := by
  intro place pos x l h
  cases x with
  | bne t mask value lab =>
    obtain ⟨p, _, rfl⟩ := Option.map_eq_some_iff.mp h
    rfl
  | wrBytes k b =>
    cases h
    exact (wrWords_length k _).trans (blockWords_fill8_length b)
  | rdBytes k m =>
    cases h
    exact rdWords_length k _
  | region r p len => cases r <;> cases h <;> rfl
  | label | wr | rd | cmd | wait | key | nonce =>
    cases h
    rfl

end Sys2Proof.Machine
end

section
/-! PROOFS. The byte lines RDBYTES and WRBYTES on an idle machine (spec/30_encoding.md R108; spec/20_memory.md R65): the
turns of a run of reads and of a run of writes, by induction over the words. -/

namespace Sys2Proof.Machine

/-- The words of a block followed by more bytes. -/
theorem blockWords_append {x : List Byte} (h : x.length = 8) (y : List Byte) :
    blockWords (x ++ y) = le64 x :: blockWords y := by
  have hlen : (x ++ y).length / 8 = y.length / 8 + 1 := by rw [List.length_append]; omega
  rw [blockWords, hlen, blocks, ← h, List.take_left, List.drop_left, List.map_cons, h]
  rfl

/-- The bytes of the words of a sequence of `8 * n` bytes are the sequence (R68, R69). -/
theorem blockWords_flatMap_bytes8 {b : List Byte} (h : 8 ∣ b.length) : (blockWords b).flatMap bytes8 = b := by
  obtain ⟨n, hn⟩ := h
  have hfull : ∀ x ∈ blocks 8 n b, bytes8 (le64 x) = x := fun x hx =>
    bytes8_le64 (blocks_block_length 8 n b hn.ge x hx)
  rw [blockWords, hn, Nat.mul_div_cancel_left n (by decide), List.flatMap_map, List.flatMap_congr hfull,
    List.flatMap_id', blocks_flatten 8 n b hn.ge, ← hn, List.take_length]

/-- `BUF+k` names the buffer word at `k`, for a word inside a buffer of a size the spec admits (R107). -/
theorem targetOf_bufOffset {c : Config} (hc : c.valid) {k : Nat} (halign : k % 8 = 0) (hfit : k + 8 ≤ c.bufBytes) :
    targetOf c.bufBytes (AsmTarget.buf k).offset = .buf k := by
  obtain ⟨_, _, hmax⟩ := hc
  have hoff : (AsmTarget.buf k).offset.toNat = 0x10000 + k :=
    (BitVec.toNat_ofNat _ _).trans (Nat.mod_eq_of_lt (by unfold bufBase; omega))
  exact targetOf_buf.mpr ⟨by omega, hoff, by omega⟩

/-- The host stands at the statements `l`. -/
def State.standsAt (s : State) (l : List HostStmt) : Prop := l <+: s.host.program.drop s.host.pos

theorem State.standsAt.hostStmt {s : State} {x : HostStmt} {l : List HostStmt} (h : s.standsAt (x :: l)) :
    s.hostStmt = some x := by
  obtain ⟨rest, hrest⟩ := h
  rw [State.hostStmt, ← List.head?_drop, ← hrest]
  rfl

/-- After the first statement the host stands at the others. -/
theorem State.standsAt.next {s t : State} {x : HostStmt} {l : List HostStmt} (h : s.standsAt (x :: l))
    (hprog : t.host.program = s.host.program) (hpos : t.host.pos = s.host.pos + 1) : t.standsAt l := by
  obtain ⟨rest, hrest⟩ := h
  refine ⟨rest, ?_⟩
  rw [hprog, hpos, ← List.tail_drop, ← hrest]
  rfl

/-- The replies to reads of the words of `b`. -/
def readReplies (b : List Byte) : List Reply := (blockWords b).map fun w => .read w .okay

/-- The bytes of the replies are the bytes read (R108). -/
theorem readBytes_readReplies {b : List Byte} (h : 8 ∣ b.length) (m : Nat) : readBytes m (readReplies b) = b.take m := by
  have hwords : (readReplies b).filterMap Reply.word? = blockWords b := by
    rw [readReplies, List.filterMap_map]
    exact List.filterMap_some
  rw [readBytes, hwords, blockWords_flatMap_bytes8 h]

/-- The state after the reads of `n` words from BUF+k on: only the host has changed, which has noted the words. -/
def State.afterReads (s : State) (k n : Nat) : State :=
  { s with host := { s.host with pos := s.host.pos + n, log := s.host.log ++ readReplies (s.memRead k (8 * n)) } }

/-- One read on an idle machine. -/
theorem hostTurn_rdWord {s : State} (hidle : s.busy = false) (hc : s.cfg.valid) {k : Nat} (halign : k % 8 = 0)
    (hfit : k + 8 ≤ s.cfg.bufBytes) (h : s.hostStmt = some (.rd (AsmTarget.buf k).offset)) :
    hostTurn s = s.hostGoes (.read (le64 (s.memRead k 8)) .okay) (s.host.pos + 1) := by
  rw [hostTurn_some h, State.runStmt, hostRead_buf (targetOf_bufOffset hc halign hfit), readBufWord_idle hidle]

theorem hostTurn_iterate_rdWords {s : State} (hidle : s.busy = false) (hc : s.cfg.valid) {k n : Nat}
    (halign : k % 8 = 0) (hfit : k + 8 * n ≤ s.cfg.bufBytes) (h : s.standsAt (rdWords k n)) :
    hostTurn^[n] s = s.afterReads k n := by
  induction n generalizing s k with
  | zero =>
    show s = s.afterReads k 0
    simp [State.afterReads, readReplies, State.memRead, blockWords, blocks]
  | succ n ih =>
    have hturn := hostTurn_rdWord hidle hc halign (by omega) h.hostStmt
    have hmem : (hostTurn s).memRead (k + 8) (8 * n) = s.memRead (k + 8) (8 * n) := by
      rw [hturn]
      exact memRead_congr fun _ _ => byteAt_congr rfl rfl _
    have hreplies : readReplies (s.memRead k (8 * (n + 1))) =
        .read (le64 (s.memRead k 8)) .okay :: readReplies (s.memRead (k + 8) (8 * n)) := by
      rw [show 8 * (n + 1) = 8 + 8 * n by omega, memRead_add, readReplies, blockWords_append (memRead_length ..)]
      rfl
    rw [Function.iterate_succ_apply, ih (by rwa [hturn]) (by rwa [hostTurn_cfg]) (by omega) (by rw [hostTurn_cfg]; omega)
      (h.next (by rw [hturn]; rfl) (by rw [hturn]; rfl)), State.afterReads, hmem, hturn, State.afterReads, hreplies]
    simp [State.hostGoes, Nat.add_assoc, Nat.add_comm 1]

/-- The state `t` after the writes of the words `ws` from BUF+k on: their bytes are stored, the host has gone past the
writes, and every other byte and field is as before. -/
structure AfterWrites (s t : State) (k : Nat) (ws : List Word) : Prop where
  stored : t.memRead k (8 * ws.length) = ws.flatMap bytes8
  outside : SameBytesOutside s t k (8 * ws.length)
  pos : t.host.pos = s.host.pos + ws.length
  frame : t = { s with host := t.host, buf := t.buf }

/-- One write on an idle machine. -/
theorem hostTurn_wrWord {s : State} (hidle : s.busy = false) (hc : s.cfg.valid) {k : Nat} (halign : k % 8 = 0)
    (hfit : k + 8 ≤ s.cfg.bufBytes) {w : Word} (h : s.hostStmt = some (.wr (AsmTarget.buf k).offset w)) :
    hostTurn s = (s.memWrite k (bytes8 w)).hostGoes (.written .okay) (s.host.pos + 1) := by
  rw [hostTurn_some h, State.runStmt, hostWrite_buf w (targetOf_bufOffset hc halign hfit), writeBufWord_idle hidle]

theorem memWrite_afterWrites (s : State) (k : Nat) (w : Word) (r : Reply) :
    AfterWrites s ((s.memWrite k (bytes8 w)).hostGoes r (s.host.pos + 1)) k [w] where
  stored := by
    have hread : (s.memWrite k (bytes8 w)).memRead k 8 = bytes8 w := memRead_memWrite s k (bytes8 w)
    exact (memRead_congr fun _ _ => byteAt_congr rfl rfl _).trans (hread.trans (List.append_nil _).symm)
  outside := fun b hb => byteAt_memWrite_outside s hb
  pos := rfl
  frame := rfl

/-- The writes of `us` and, from the word after them on, of `vs`. -/
theorem AfterWrites.append {s t u : State} {k : Nat} {us vs : List Word} (h : AfterWrites s t k us)
    (h' : AfterWrites t u (k + 8 * us.length) vs) : AfterWrites s u k (us ++ vs) where
  stored := by
    have hfirst : u.memRead k (8 * us.length) = t.memRead k (8 * us.length) :=
      memRead_congr fun i hi => h'.outside (k + i) (by omega)
    rw [List.length_append, Nat.mul_add, memRead_add, hfirst, h.stored, h'.stored, List.flatMap_append]
  outside := fun b hb => by
    rw [List.length_append] at hb
    rw [h'.outside b (by omega), h.outside b (by omega)]
  pos := by rw [h'.pos, h.pos, List.length_append, Nat.add_assoc]
  frame := by rw [h'.frame, h.frame]

theorem hostTurn_iterate_wrWords {s : State} (hidle : s.busy = false) (hc : s.cfg.valid) {k : Nat} {ws : List Word}
    (halign : k % 8 = 0) (hfit : k + 8 * ws.length ≤ s.cfg.bufBytes) (h : s.standsAt (wrWords k ws)) :
    AfterWrites s (hostTurn^[ws.length] s) k ws := by
  induction ws generalizing s k with
  | nil => exact ⟨rfl, fun _ _ => rfl, rfl, rfl⟩
  | cons w ws ih =>
    rw [List.length_cons] at hfit
    have hturn := hostTurn_wrWord hidle hc halign (by omega) h.hostStmt
    have hfirst := memWrite_afterWrites s k w (.written .okay)
    rw [← hturn] at hfirst
    have hrest := ih (s := hostTurn s) (k := k + 8) (by rwa [hturn]) (by rwa [hostTurn_cfg]) (by omega)
      (by rw [hostTurn_cfg]; omega) (h.next (by rw [hturn]; rfl) hfirst.pos)
    exact hfirst.append hrest

/-- The result of RDBYTES: the first `m` of the bytes read (R108). -/
theorem rdResult_afterReads (s : State) (k m : Nat) :
    (s.afterReads k ((m + 7) / 8)).host.rdResult s.host.log.length m = s.memRead k m := by
  have hm : 8 * ((m + 7) / 8) = m + (8 * ((m + 7) / 8) - m) := by omega
  have hcount : (readReplies (s.memRead k (8 * ((m + 7) / 8)))).length = (m + 7) / 8 := by simp [readReplies]
  rw [HostAgent.rdResult, State.afterReads, List.drop_left, List.take_of_length_le hcount.le,
    readBytes_readReplies ⟨_, memRead_length ..⟩, hm, memRead_add, List.take_left' (memRead_length ..)]

/-- Settles O60: the words read are those of the bytes from k on, and the words written those of the bytes filled up
with zeros. -/
theorem byteLinesMoveTheBytes : Obligations.ByteLinesMoveTheBytes := by
  intro s k place l hidle hc halign hstands
  constructor
  · intro m hl hfit
    cases hl
    rw [rdWords_length, hostTurn_iterate_rdWords hidle hc halign hfit hstands]
    exact ⟨rdResult_afterReads s k m, rfl, rfl⟩
  · intro b hl hfit
    cases hl
    have hlen := blockWords_fill8_length b
    obtain ⟨hstored, houtside, hpos, hframe⟩ :=
      hostTurn_iterate_wrWords hidle hc halign (by rwa [hlen]) hstands
    rw [hlen] at hstored houtside hpos hframe
    rw [blockWords_flatMap_bytes8 ⟨_, fill8_length b⟩, fill8_eq] at hstored
    rw [wrWords_length, hlen]
    exact ⟨hstored, houtside, hpos, hframe⟩

end Sys2Proof.Machine
end

section
/-! PROOFS. The layers of a round and the permutation (spec/40_permutation.md R120 to R127): each layer bit by bit,
and the rounds that Perm(n) runs. -/

namespace Sys2Proof.Machine

/-- The rule's formula is the library's rotation (R120). -/
theorem rotr64_eq_rotateRight (x : Word) {n : Nat} (hn : n < 64) : rotr64 x n = x.rotateRight n := by
  rw [BitVec.rotateRight, Nat.mod_eq_of_lt hn]
  rfl

theorem rotr64_getLsbD (x : Word) {n i : Nat} (hn : n < 64) (hi : i < 64) :
    (rotr64 x n).getLsbD i = x.getLsbD ((i + n) % 64) := by
  rw [rotr64_eq_rotateRight x hn, BitVec.getLsbD_rotateRight_of_lt hn]
  by_cases hwrap : i < 64 - n
  · rw [decide_eq_true hwrap, cond_true, Nat.mod_eq_of_lt (by omega), Nat.add_comm]
  · rw [decide_eq_false hwrap, cond_false, decide_eq_true hi, Bool.true_and,
      show (i + n) % 64 = i - (64 - n) by omega]

/-- Settles O29: the formula is the model's definition, and its bits are those of the library's rotation. -/
theorem rotationMovesBits : Obligations.RotationMovesBits :=
  fun x _ _ _ hn hi => ⟨rfl, rotr64_getLsbD x (Nat.lt_succ_of_le hn) hi⟩

theorem roundConstant_toNat {r : Nat} (h : r ≤ 11) : (roundConstant r).toNat = 0xF0 - r * 0x10 + r := by
  rw [roundConstant, BitVec.toNat_ofNat]
  omega

/-- The second form of the constant (R121): the two nibbles do not meet. -/
theorem roundConstant_toNat_nibbles {r : Nat} (h : r ≤ 11) : (roundConstant r).toNat = ((0xF - r) <<< 4) ||| r := by
  rw [roundConstant_toNat h, ← Nat.shiftLeft_add_eq_or_of_lt (by omega), Nat.shiftLeft_eq]
  omega

/-- The constant has no bit from 8 on, so bits 63:8 of S[2] stay (R122). -/
theorem layerC_s2_getLsbD (r : Nat) (s : Sponge) (i : Nat) :
    (layerC r s).s2.getLsbD i = (s.s2.getLsbD i ^^ (roundConstant r).getLsbD i) := by
  have hext : ((roundConstant r).zeroExtend 64).getLsbD i = (roundConstant r).getLsbD i := by
    rw [BitVec.zeroExtend, BitVec.getLsbD_setWidth, Bool.and_eq_right_iff_imp, decide_eq_true_iff]
    intro hbit
    have := BitVec.lt_of_getLsbD hbit
    omega
  rw [layerC, BitVec.getLsbD_xor, hext]

/-- Settles O30: both forms of the constant, and S[2] bit by bit. -/
theorem roundConstantLayer : Obligations.RoundConstantLayer := by
  intro r s hr
  refine ⟨roundConstant_toNat hr, roundConstant_toNat_nibbles hr, rfl, rfl, rfl, rfl, fun i hi => ?_,
    fun i _ => layerC_s2_getLsbD r s i⟩
  rw [layerC_s2_getLsbD, BitVec.getLsbD_of_ge _ i hi, Bool.xor_false]

/-- Five bits as a number, the first the most significant (R124). -/
def columnValue (x0 x1 x2 x3 x4 : Bool) : Nat :=
  16 * x0.toNat + 8 * x1.toNat + 4 * x2.toNat + 2 * x3.toNat + x4.toNat

/-- R123 on the five bits of one column, S[0]'s first: the number of the column after it. -/
def substColumn (x0 x1 x2 x3 x4 : Bool) : Nat :=
  let a0 := x0 ^^ x4
  let a4 := x4 ^^ x3
  let a2 := x2 ^^ x1
  let b0 := a0 ^^ (!x1 && a2)
  let b1 := x1 ^^ (!a2 && x3)
  let b2 := a2 ^^ (!x3 && a4)
  let b3 := x3 ^^ (!a4 && a0)
  let b4 := a4 ^^ (!a0 && x1)
  columnValue (b0 ^^ b4) (b1 ^^ b0) (!b2) (b3 ^^ b2) b4

/-- The layer is bit-sliced: a column after it depends on the same column before it only (R124). -/
theorem layerS_column (s : Sponge) {j : Nat} (hj : j < 64) : (layerS s).column j =
    substColumn (s.s0.getLsbD j) (s.s1.getLsbD j) (s.s2.getLsbD j) (s.s3.getLsbD j) (s.s4.getLsbD j) := by
  simp only [layerS, Sponge.column, substColumn, columnValue, BitVec.getLsbD_xor, BitVec.getLsbD_and,
    BitVec.getLsbD_not, hj, decide_true, Bool.true_and]

/-- The rule's table is R123 on each of the 32 columns. -/
theorem sboxTable_columnValue : ∀ x0 x1 x2 x3 x4 : Bool,
    sboxTable[columnValue x0 x1 x2 x3 x4]? = some (substColumn x0 x1 x2 x3 x4) := by decide

/-- Settles O31: a column is read off its five bits, and the table agrees with R123 on all of them. -/
theorem substitutionIsTheSbox : Obligations.SubstitutionIsTheSbox := by
  intro s j hj
  rw [layerS_column s hj]
  exact sboxTable_columnValue ..

theorem diffuse_getLsbD (x : Word) {m n j : Nat} (hm : m < 64) (hn : n < 64) (hj : j < 64) :
    (diffuse x m n).getLsbD j = (x.getLsbD j ^^ x.getLsbD ((j + m) % 64) ^^ x.getLsbD ((j + n) % 64)) := by
  rw [diffuse, BitVec.getLsbD_xor, BitVec.getLsbD_xor, rotr64_getLsbD x hm hj, rotr64_getLsbD x hn hj]

/-- Settles O32: each word of `layerL` is `diffuse` by its two amounts. -/
theorem diffusionMixesEachWord : Obligations.DiffusionMixesEachWord := by
  intro s j hj
  refine ⟨?_, ?_, ?_, ?_, ?_⟩ <;> exact diffuse_getLsbD _ (by decide) (by decide) hj

/-- Settles O33, by induction on the number of rounds: with k + 1 rounds the first is 11 - k, and Perm(k) runs the
rest. -/
theorem permuteRunsTheLastRounds : Obligations.PermuteRunsTheLastRounds := by
  intro n s hn
  induction n generalizing s with
  | zero => rfl
  | succ k ih =>
    have hrounds : List.range' (12 - (k + 1)) (k + 1) = (11 - k) :: List.range' (12 - k) k := by
      rw [List.range'_succ, show 12 - (k + 1) = 11 - k by omega, show 11 - k + 1 = 12 - k by omega]
    rw [hrounds, List.foldl_cons, permute, permRound]
    exact ih _ (by omega)

end Sys2Proof.Machine
end

section
/-! PROOFS. The PERM command (spec/40_permutation.md R128). -/

namespace Sys2Proof.Machine

theorem exec_perm_of_le {n : Nat} (hn : n ≤ 12) (s : State) :
    exec (.perm n) s = .next ((s.withSponge (permute n s.sponge)).complete .ok false) :=
  if_neg (Nat.not_lt.mpr hn)

theorem exec_perm_of_gt {n : Nat} (hn : 12 < n) (s : State) :
    exec (.perm n) s = .next (s.complete .invalidParam false) :=
  if_pos hn

/-- Settles O19: the frame is that of a command's end and of a completion; the word is PERM's own. -/
theorem permMeetsItsRule : Obligations.PermMeetsItsRule := by
  intro n s
  refine ⟨fun hn => ?_, fun hgt _ => ⟨_, exec_perm_of_gt hgt s, complete_onlyStatus s .invalidParam⟩,
    fun hlt => decodeOfEncode (.perm n) (decide_eq_true hlt), rfl⟩
  have hends : Ends (.perm n) s _ := .permuted n rfl hn
  have hstatus := complete_onlyStatus (s.withSponge (permute n s.sponge)) .ok
  exact ⟨_, exec_perm_of_le hn s, hstatus.sponge, hstatus.bytes, hends.keepsKeys nofun, hends.keepsRest,
    hstatus.status⟩

end Sys2Proof.Machine
end

section
/-! PROOFS. What a command writes to the buffer (spec/41_sponge.md R148; spec/60_exceptions.md R241), beside
`Ends.keepsRest` and `Ends.keepsKeys`, and CLEAR (spec/41_sponge.md R151). -/

namespace Sys2Proof.Machine

/-- Only the end with an output stores bytes, and that is a success of a command with regions. -/
theorem Ends.sameBytes {i : Instr} {s t : State} (h : Ends i s t) (hno : usesRegions i = true → t.err ≠ .ok) :
    SameBytes s t := by
  cases h with
  | checkError e => exact (complete_onlyStatus s e).bytes
  | output auth y hy hfit hregions => exact absurd rfl (hno hregions)
  | authFail | permuted | cleared => exact byteAt_congr rfl rfl

theorem Ends.sameBytesOutside {i : Instr} {s t : State} (h : Ends i s t) :
    SameBytesOutside s t s.outPtr.toNat s.outLen.toNat := by
  cases h with
  | output auth y hy => exact (finishFace_done s auth y hy).outside
  | checkError | authFail | permuted | cleared => exact fun b _ => byteAt_congr rfl rfl b

/-- Settles O16: of the ways a command ends only one stores bytes, in the OUT region. -/
theorem commandsWriteOnlyTheirOutput : Obligations.CommandsWriteOnlyTheirOutput := by
  intro i s t h
  have hends := exec_cases h
  exact ⟨hends.sameBytesOutside, fun hnone => hends.sameBytes fun hregions => by simp [hnone] at hregions,
    fun herr => hends.sameBytes fun _ => herr⟩

/-- Settles O20: the frame is that of a command's end. -/
theorem clearMeetsItsRule : Obligations.ClearMeetsItsRule := by
  refine ⟨decodeOfEncode .clear rfl, fun s => ?_⟩
  have hends : Ends .clear s _ := .cleared rfl
  exact ⟨_, rfl, rfl, rfl, rfl, rfl, rfl, rfl, rfl, rfl, rfl, hends.sameBytes nofun, hends.keepsRest,
    ⟨rfl, rfl, rfl, rfl⟩⟩

end Sys2Proof.Machine
end

section
/-! PROOFS. Issue and execution of a command (spec/41_sponge.md R146, R147): the write of CMD, the step in which the
core moves, and the turns until it does (spec/70_reset_and_hazards.md R277). -/

namespace Sys2Proof.Machine

/-- Settles O47: CMD is a guarded register, and while idle its write is `State.issue`. -/
theorem cmdWriteIssues : Obligations.CmdWriteIssues := by
  refine fun s w => ⟨fun hb => ?_, fun hidle => ?_⟩
  · exact (hostWrite_off s .cmd w).trans (congrArg (·, Resp.okay) (whenIdle_busy hb _))
  · exact ⟨s.issue w, hostWrite_guarded_idle hidle .cmd w rfl, rfl, rfl, rfl, rfl, rfl, rfl, rfl⟩

/-- When the core moves next, by the schedule or after it, the step is its turn. -/
theorem step_of_nextTurn_core {s : State} (h : s.nextTurn = some .core) : step s = coreTurn s.popTurn := by
  simp [step, h]

/-- Settles O6: the turn taken off the schedule leaves PENDING as it is. -/
theorem stepRunsDecodedCommand : Obligations.StepRunsDecodedCommand :=
  fun _ _ _ hnext hw hi => (step_of_nextTurn_core hnext).trans (coreTurn_command hw hi)

theorem decode_of_decodeTableWord {nbits w : Nat} {i : Instr} (h : decodeTableWord nbits w = some i) :
    decode (tableWord nbits w) = .command i := by
  rw [decodeTableWord] at h
  cases hd : decode (tableWord nbits w) with
  | command j =>
    rw [hd] at h
    exact congrArg Decoded.command (Option.some.inj h)
  | unsupported why =>
    rw [hd] at h
    cases h

/-- Settles O7: the placed word is in flight and the core moves next. That a word is placed from outside is the model's
choice (log entry 8). -/
theorem placedWordRunsNext : Obligations.PlacedWordRunsNext :=
  fun _ _ _ _ h => stepRunsDecodedCommand _ _ _ rfl rfl (decode_of_decodeTableWord h)

theorem busy_of_pending {s : State} {w : Word} (h : s.pending = some w) : s.busy = true := by simp [State.busy, h]

/-- The core's turn ends the command in flight, whether its word decodes or not (R147). -/
theorem coreTurn_idle_done {s t : State} (hb : s.busy = true) (h : coreTurn s = .next t) :
    t.busy = false ∧ t.done = true := by
  rcases coreTurn_cases h with ⟨hnone, _⟩ | ⟨_, _, _, _, rfl⟩ | ⟨_, _, _, _, hexec⟩
  · simp [State.busy, hnone] at hb
  · exact ⟨rfl, rfl⟩
  · exact (exec_cases hexec).idle_done

@[simp] theorem hostWrite_schedule (s : State) (off : Offset) (d : Word) :
    (s.hostWrite off d).1.schedule = s.schedule :=
  congrArg (fun p : State × Resp => p.1.schedule) (hostWrite_withAgents s s.schedule s.host off d)

@[simp] theorem runStmt_schedule (s : State) (x : HostStmt) : (s.runStmt x).schedule = s.schedule := by
  cases x with
  | wr off d => exact hostWrite_schedule s off d
  | rd | bne => rfl

@[simp] theorem hostTurn_schedule (s : State) : (hostTurn s).schedule = s.schedule := by
  cases hx : s.hostStmt with
  | none => rw [hostTurn_none hx]
  | some x => rw [hostTurn_some hx, runStmt_schedule]

/-- While BUSY = 1 no HostWrite reaches PENDING: a write of CMD is dropped. -/
theorem hostWrite_pending_busy {s : State} (hb : s.busy = true) (off : Offset) (d : Word) :
    (s.hostWrite off d).1.pending = s.pending := by
  rcases hostWrite_busy hb off d with h | h | h | h <;> rw [h]
  · exact State.setWerr_pending s
  · exact State.writeStatus_pending s d

theorem runStmt_pending_busy {s : State} (hb : s.busy = true) (x : HostStmt) : (s.runStmt x).pending = s.pending := by
  cases x with
  | wr off d => exact hostWrite_pending_busy hb off d
  | rd | bne => rfl

theorem hostTurn_pending_busy {s : State} (hb : s.busy = true) : (hostTurn s).pending = s.pending := by
  cases hx : s.hostStmt with
  | none => rw [hostTurn_none hx]
  | some x => rw [hostTurn_some hx, runStmt_pending_busy hb]

theorem run_succ_of_step {M : Host.Core} {s t : M.State} (h : M.step s = .next t) (k : Nat) :
    M.run (k + 1) s = M.run k t := by
  rw [Host.Core.run, h]

/-- The turns before the first core turn, of which none is a reset, leave the command in flight and the core next. -/
theorem run_until_core {s : State} {w : Word} (hw : s.pending = some w)
    (hreset : .reset ∉ s.schedule.takeWhile (fun x => decide (x ≠ .core))) :
    ∃ u : State, Host.Core.run Sys2Proof.core (s.schedule.takeWhile (fun x => decide (x ≠ .core))).length s = .next u ∧
      u.pending = some w ∧ u.nextTurn = some .core := by
  have hb : s.busy = true := busy_of_pending hw
  generalize hxs : s.schedule = xs at hreset
  induction xs generalizing s with
  | nil => exact ⟨s, rfl, hw, nextTurn_busy hxs hb⟩
  | cons x xs ih =>
    cases x with
    | core => exact ⟨s, rfl, hw, nextTurn_cons hxs⟩
    | reset => exact absurd List.mem_cons_self hreset
    | host =>
      have hpending : (hostTurn s.popTurn).pending = some w := (hostTurn_pending_busy (s := s.popTurn) hb).trans hw
      have hschedule : (hostTurn s.popTurn).schedule = xs := by rw [hostTurn_schedule, State.popTurn, hxs]; rfl
      obtain ⟨u, hrun, hu⟩ := ih hpending (busy_of_pending hpending) hschedule fun hmem =>
        hreset (List.mem_cons_of_mem _ hmem)
      exact ⟨u, (run_succ_of_step (M := Sys2Proof.core) (step_host hxs) _).trans hrun, hu⟩

/-- Settles O12: the turns up to the core's, then the core's turn, which completes. That the schedule is a finite list
is the model's choice (log entry 4). -/
theorem commandInFlightIsExecuted : Obligations.CommandInFlightIsExecuted := by
  intro s w hw hreset
  obtain ⟨u, hrun, hpending, hnext⟩ := run_until_core hw hreset
  have hb : u.popTurn.busy = true := busy_of_pending hpending
  obtain ⟨t, ht, _⟩ := coreTurn_completes hb
  exact ⟨u, t, hrun, hpending, hnext, (step_of_nextTurn_core hnext).trans ht, coreTurn_idle_done hb ht⟩

end Sys2Proof.Machine
end

section
/-! PROOFS. Padding (spec/41_sponge.md R141): the length of the padded sequence and its blocks. -/

namespace Sys2Proof.Machine

/-- The padded length is the least multiple of the block size greater than the length. -/
theorem pad_length_eq_mul (x : List Byte) {r : Nat} (hr : 0 < r) : (pad x r).length = r * (x.length / r + 1) := by
  have hdiv := Nat.div_add_mod x.length r
  have hmod := Nat.mod_lt x.length hr
  rw [pad_length, Nat.mul_add, Nat.mul_one]
  omega

/-- As many blocks as the padded sequence holds. -/
theorem padBlocks_eq (x : List Byte) {r : Nat} (hr : 0 < r) :
    padBlocks x r = blocks r (x.length / r + 1) (pad x r) := by
  rw [padBlocks, pad_length_eq_mul x hr, Nat.mul_div_cancel_left _ hr]

/-- Settles O35, from the laws of blocks. -/
theorem paddingFillsTheLastBlock : Obligations.PaddingFillsTheLastBlock := by
  intro x r h
  have hr : 0 < r := by omega
  have hlen := pad_length_eq_mul x hr
  rw [padBlocks_eq x hr]
  refine ⟨rfl, hlen, blocks_length .., ?_, blocks_block_length r _ _ hlen.ge⟩
  rw [blocks_flatten r _ _ hlen.ge, ← hlen, List.take_length]

end Sys2Proof.Machine
end

section
/-! PROOFS. The face commands as functions of their operands (spec/41_sponge.md R149; spec/42_aead.md R177;
spec/43_hash.md R207; spec/44_mac.md R226): the output of each, how exec ends with it, and what it depends on. -/

namespace Sys2Proof.Machine

/-- The output of a face command whose checks pass; none if AEAD.DEC finds a tag that differs, and for the commands
without regions. -/
def faceOutput (i : Instr) (s : State) : Option (List Byte) :=
  match i with
  | .perm _ => none
  | .aeadEnc => some (aeadEncrypt s.key0 s.key1 s.nonce0 s.nonce1 (auxBytes s) (inBytes s))
  | .aeadDec =>
    let d := aeadDecrypt s.key0 s.key1 s.nonce0 s.nonce1 (auxBytes s) ((inBytes s).take (s.inLen.toNat - 16))
    if d.2 = (inBytes s).drop (s.inLen.toNat - 16) then some d.1 else none
  | .hash256 => some (hashBytes ivHash256 (inBytes s) 32)
  | .xof128 => some (hashBytes ivXof128 (inBytes s) s.outLen.toNat)
  | .cxof128 => some (cxofBytes (auxBytes s) (inBytes s) s.outLen.toNat)
  | .mac => some (macPrfBytes 128 s.key0 s.key1 (inBytes s) s.outLen.toNat)
  | .prf => some (macPrfBytes 0 s.key0 s.key1 (inBytes s) s.outLen.toNat)
  | .prfshort => some (prfShortBytes s.key0 s.key1 (inBytes s) s.outLen.toNat)
  | .clear => none

/-- The state in which a face command whose checks pass ends, with its output or with AUTH_FAIL (R148;
42_aead.md R176). -/
def State.endFace (s : State) (auth : Bool) (o : Option (List Byte)) : State :=
  match o with
  | some y => s.finishFace auth y
  | none => s.zeroSponge.complete .authFail false

/-- A face command by the first check that fails (60_exceptions.md R242). -/
theorem exec_invalidParam {i : Instr} {s : State} (hi : usesRegions i = true) (hp : ¬paramsOk i s) :
    exec i s = .next (s.complete .invalidParam false) := by
  obtain ⟨p, f, hexec, hparam, _⟩ := exec_face hi s
  rw [hexec, Bool.eq_false_iff.mpr fun h => hp (hparam.mp h), checked_param]

theorem exec_range {i : Instr} {s : State} (hi : usesRegions i = true) (hp : paramsOk i s)
    (hfit : ¬RegionsFit (usesAux i) s) : exec i s = .next (s.complete .range false) := by
  obtain ⟨p, f, hexec, hparam, _⟩ := exec_face hi s
  rw [hexec, hparam.mpr hp, checked_range s _ f hfit]

theorem checked_eq_of_body {s : State} {p aux : Bool} {f : State → Result} {r : Result} (hp : p = true)
    (hfit : RegionsFit aux s) (hr : f s = r) : s.checked p aux f = r := by
  rw [hp, checked_body s aux f hfit, hr]

/-- A face command whose checks pass; of AEAD.DEC, the tags' comparison decides whether there is an output. -/
theorem exec_endFace {i : Instr} {s : State} (hi : usesRegions i = true) (hp : paramsOk i s)
    (hfit : RegionsFit (usesAux i) s) : exec i s = .next (s.endFace (decide (i = .aeadDec)) (faceOutput i s)) := by
  cases i with
  | perm | clear => cases hi
  | xof128 | prf =>
    simp only [exec, execXof128, execPrf]
    exact checked_eq_of_body rfl hfit rfl
  | aeadEnc | hash256 | cxof128 | mac =>
    simp only [exec, execAeadEnc, execHash256, execCxof128, execMac]
    exact checked_eq_of_body (decide_eq_true hp) hfit rfl
  | prfshort =>
    simp only [exec, execPrfshort]
    exact checked_eq_of_body (Bool.and_eq_true_iff.mpr (hp.imp decide_eq_true decide_eq_true)) hfit rfl
  | aeadDec =>
    simp only [exec, execAeadDec]
    refine checked_eq_of_body (Bool.and_eq_true_iff.mpr (hp.imp decide_eq_true decide_eq_true)) hfit ?_
    exact Eq.symm (apply_ite (fun o => Host.Outcome.next (s.endFace true o)) _ _ _)

/-- The output of a face command has OUT_LEN bytes (R148). -/
theorem faceOutput_length {i : Instr} {s : State} {y : List Byte} (hp : paramsOk i s) (h : faceOutput i s = some y) :
    y.length = s.outLen.toNat := by
  have hin : (inBytes s).length = s.inLen.toNat := memRead_length ..
  cases i with
  | perm | clear => cases h
  | aeadEnc =>
    cases h
    rw [aeadEncrypt_length, hin, ← hp]
  | aeadDec =>
    obtain ⟨_, hlen⟩ := hp
    obtain ⟨_, hy⟩ := Option.ite_none_right_eq_some.mp h
    rw [← Option.some.inj hy, aeadDecrypt_length, List.length_take, hin, hlen]
    omega
  | hash256 =>
    cases h
    rw [hp]
    exact squeeze_length ..
  | xof128 | cxof128 =>
    cases h
    exact squeeze_length ..
  | mac | prf =>
    cases h
    exact macPrfSqueeze_length ..
  | prfshort =>
    cases h
    obtain ⟨_, hout⟩ := hp
    exact prfShortBytes_length _ _ _ _ hout

/-- The parameter checks, the region checks and the output read the operands only. -/
theorem SameOperands.paramsOk {i : Instr} {s s' : State} (h : SameOperands i s s') : paramsOk i s' ↔ paramsOk i s := by
  cases i with
  | perm | xof128 | prf | clear => exact Iff.rfl
  | cxof128 => simp only [Machine.paramsOk, h.auxLen rfl]
  | _ => simp only [Machine.paramsOk, h.inLen, h.outLen]

theorem SameOperands.regionsFit {i : Instr} {s s' : State} (h : SameOperands i s s') :
    RegionsFit (usesAux i) s' ↔ RegionsFit (usesAux i) s := by
  simp only [RegionsFit, h.cfg, h.inPtr, h.inLen, h.outPtr, h.outLen]
  exact and_congr_left fun _ => forall_congr' fun haux => by rw [h.auxPtr haux, h.auxLen haux]

theorem SameOperands.faceOutput {i : Instr} {s s' : State} (h : SameOperands i s s') :
    faceOutput i s' = faceOutput i s := by
  cases i with
  | perm | clear => rfl
  | hash256 | xof128 => simp only [Machine.faceOutput, h.inputs, h.outLen]
  | cxof128 => simp only [Machine.faceOutput, h.inputs, h.outLen, h.aux rfl]
  | mac | prf | prfshort =>
    obtain ⟨hkey0, hkey1⟩ := h.key rfl
    simp only [Machine.faceOutput, h.inputs, h.outLen, hkey0, hkey1]
  | aeadEnc | aeadDec =>
    obtain ⟨hkey0, hkey1⟩ := h.key rfl
    obtain ⟨hnonce0, hnonce1⟩ := h.nonce rfl
    simp only [Machine.faceOutput, h.inputs, h.inLen, h.aux rfl, hkey0, hkey1, hnonce0, hnonce1]

/-- A completed face command in two states: ERR, AUTHOK and, on success, the bytes of `a .. a + n - 1` are the same. -/
def SameOutcome (t t' : State) (a n : Nat) : Prop :=
  t'.err = t.err ∧ t'.authok = t.authok ∧ (t.err = .ok → t'.memRead a n = t.memRead a n)

theorem sameOutcome_complete (s s' : State) {e : ErrCode} (he : e ≠ .ok) (a n : Nat) :
    SameOutcome (s.complete e false) (s'.complete e false) a n :=
  ⟨rfl, rfl, fun hok => absurd hok he⟩

/-- One output, stored in the same OUT region. -/
theorem sameOutcome_endFace {s s' : State} (auth : Bool) {o : Option (List Byte)} (hptr : s'.outPtr = s.outPtr)
    (hlen : s'.outLen = s.outLen) (ho : ∀ y, o = some y → y.length = s.outLen.toNat) :
    SameOutcome (s.endFace auth o) (s'.endFace auth o) s.outPtr.toNat s.outLen.toNat := by
  cases o with
  | none => exact sameOutcome_complete _ _ (e := .authFail) (by decide) _ _
  | some y =>
    have hdone := finishFace_done s auth y (ho y rfl)
    have hdone' := finishFace_done s' auth y (hlen ▸ ho y rfl)
    have hout' := hdone'.output
    rw [hptr, hlen] at hout'
    exact ⟨rfl, rfl, fun _ => hout'.trans hdone.output.symm⟩

/-- Settles O40: both executions fail the same check, or end with the same output. -/
theorem faceResultsDependOnOperandsOnly : Obligations.FaceResultsDependOnOperandsOnly := by
  intro i s t s' t' hi hsame ht ht'
  show SameOutcome t t' s.outPtr.toNat s.outLen.toNat
  by_cases hp : paramsOk i s
  · by_cases hfit : RegionsFit (usesAux i) s
    · rw [exec_endFace hi hp hfit] at ht
      rw [exec_endFace hi (hsame.paramsOk.mpr hp) (hsame.regionsFit.mpr hfit), hsame.faceOutput] at ht'
      cases ht
      cases ht'
      exact sameOutcome_endFace _ hsame.outPtr hsame.outLen fun _ hy => faceOutput_length hp hy
    · rw [exec_range hi hp hfit] at ht
      rw [exec_range hi (hsame.paramsOk.mpr hp) (hsame.regionsFit.not.mpr hfit)] at ht'
      cases ht
      cases ht'
      exact sameOutcome_complete s s' (by decide) _ _
  · rw [exec_invalidParam hi hp] at ht
    rw [exec_invalidParam hi (hsame.paramsOk.not.mpr hp)] at ht'
    cases ht
    cases ht'
    exact sameOutcome_complete s s' (by decide) _ _

end Sys2Proof.Machine
end

section
/-! PROOFS. The initial states and the phases before the block loops (spec/42_aead.md R171 to R173; spec/43_hash.md R200
to R202; spec/44_mac.md R220, R221), as words. -/

namespace Sys2Proof.Machine

/-- LoadState of five words laid out as bytes gives the words back (R70). -/
theorem loadState_bytes8 (w0 w1 w2 w3 w4 : Word) :
    loadState (bytes8 w0 ++ (bytes8 w1 ++ bytes8 w2) ++ (bytes8 w3 ++ bytes8 w4)) =
      { s0 := w0, s1 := w1, s2 := w2, s3 := w3, s4 := w4 } := by
  calc _ = Sponge.mk (le64 (bytes8 w0)) (le64 (bytes8 w1)) (le64 (bytes8 w2)) (le64 (bytes8 w3))
        (le64 (bytes8 w4)) := rfl
    _ = _ := by simp only [le64_bytes8]

/-- The IV word of AEAD (R170). -/
theorem ivAead_eq : ivAead = 0x00001000808C0001 := by decide

/-- MAC and PRF lay out the IV and the key, and the zeros are two words (R220). -/
theorem macPrfInit_eq (tagspec k0 k1 : Word) : macPrfInit tagspec k0 k1 = permute 12
    { s0 := le64 ([128, 128, 140, 0] ++ (bytes8 tagspec).take 4), s1 := k0, s2 := k1, s3 := 0, s4 := 0 } := by
  rw [macPrfInit, show zeroBytes 16 = bytes8 0 ++ bytes8 0 from rfl, ← loadState_bytes8, bytes8_le64 rfl]

/-- Settles O36: each byte sequence is that of its words, and the words of the constants are computed. -/
theorem initialStatesAsWords : Obligations.InitialStatesAsWords := by
  refine ⟨fun k0 k1 n0 n1 => ?_, fun iv => ?_, fun k0 k1 => macPrfInit_eq 128 k0 k1, fun k0 k1 => macPrfInit_eq 0 k0 k1,
    by decide, by decide, by decide⟩
  · simp only [aeadInit, loadState_bytes8, ivAead_eq]
  · rw [hashInit, ← loadState_bytes8]
    rfl

theorem padBlocks_block_length (x : List Byte) {r : Nat} (hr : 0 < r) : ∀ b ∈ padBlocks x r, b.length = r := by
  rw [padBlocks_eq x hr]
  exact blocks_block_length r _ _ (pad_length_eq_mul x hr).ge

theorem absorbAll_eq_foldl (n : Nat) (bs : List (List Byte)) (s : Sponge) :
    absorbAll n bs s = bs.foldl (fun x b => permute n (xorBlock b x)) s := by
  induction bs generalizing s with
  | nil => rfl
  | cons b bs ih => exact ih _

/-- Blocks of two words (R172). -/
theorem absorbAll_xor2 (n : Nat) {bs : List (List Byte)} (h : ∀ b ∈ bs, b.length = 16) (s : Sponge) :
    absorbAll n bs s = bs.foldl (fun x b => permute n (x.xor2 b)) s := by
  rw [absorbAll_eq_foldl]
  exact List.foldl_ext _ _ _ fun x b hb => by rw [xorBlock_two x b (h b hb)]

/-- Settles O56: associated data has at least one block exactly when it is not empty; finalisation is the model's. -/
theorem aeadPhasesFoldOverBlocks : Obligations.AeadPhasesFoldOverBlocks := by
  refine ⟨fun ad s => ?_, fun _ _ _ => rfl⟩
  have hblocks := absorbAll_xor2 8 (padBlocks_block_length ad (r := 16) (by decide)) s
  by_cases had : ad = []
  · subst had
    rfl
  · simp only [aeadAbsorbAD, List.length_pos_iff.mpr had, had, if_true, if_false, hblocks]
    rfl

/-- The one block of an empty message, of 8 and of 32 bytes (R141). -/
theorem padBlocks_nil_8 : padBlocks [] 8 = [bytes8 1] := by decide

theorem padBlocks_nil_32 : padBlocks [] 32 = [bytes8 1 ++ zeroBytes 24] := by decide

/-- A block of one word's bytes is XORed into S[0] (R150). -/
theorem xorBlock_bytes8 (w : Word) (s : Sponge) : xorBlock (bytes8 w) s = { s with s0 := s.s0 ^^^ w } := by
  rw [xorBlock_one s _ rfl, Sponge.xor1, le64_bytes8]

theorem xorBlock_bytes8_zero (s : Sponge) : xorBlock (bytes8 0) s = s := by
  rw [xorBlock_bytes8]
  simp

/-- The padding block alone on S[0] to S[3]: only its first word is not 0. -/
theorem xorBlock_pad32 (s : Sponge) : xorBlock (bytes8 1 ++ zeroBytes 24) s = { s with s0 := s.s0 ^^^ 1 } := by
  rw [xorBlock_four s _ rfl, Sponge.xor4,
    show le64 (slice (bytes8 1 ++ zeroBytes 24) 0 8) = 1 by decide,
    show le64 (slice (bytes8 1 ++ zeroBytes 24) 8 8) = 0 by decide,
    show le64 (slice (bytes8 1 ++ zeroBytes 24) 16 8) = 0 by decide,
    show le64 (slice (bytes8 1 ++ zeroBytes 24) 24 8) = 0 by decide]
  simp

/-- Settles O37: the blocks of the empty input, written out, each XORed in as words. -/
theorem emptyInputsAreAbsorbed : Obligations.EmptyInputsAreAbsorbed := by
  intro s
  have hlength : padBlocks (bytes8 (BitVec.ofNat 64 (8 * ([] : List Byte).length)) ++ []) 8 = [bytes8 0, bytes8 1] := by
    decide
  refine ⟨rfl, ?_, ?_, ?_⟩
  · rw [msgAbsorb, padBlocks_nil_8, absorbAll, xorBlock_bytes8, absorbAll]
  · rw [customAbsorb, hlength, absorbAll, xorBlock_bytes8_zero, absorbAll, xorBlock_bytes8, absorbAll]
  · rw [macPrfAbsorb, padBlocks_nil_32, macBlocks, xorBlock_pad32]

end Sys2Proof.Machine
end

section
/-! PROOFS. The rate S[0], S[1] as 16 bytes (spec/41_sponge.md R150): what a block XORed into it or put in its place
gives, by the XOR of byte sequences. -/

namespace Sys2Proof.Machine

/-- The 16 bytes of S[0] and S[1], which the AEAD emits. -/
def Sponge.rate (s : Sponge) : List Byte := bytes8 s.s0 ++ bytes8 s.s1

/-- S[0] and S[1] replaced by the words of a 16-byte block (42_aead.md R175). -/
def Sponge.setRate (s : Sponge) (b : List Byte) : Sponge :=
  { s with s0 := le64 (slice b 0 8), s1 := le64 (slice b 8 8) }

/-- A block of 2 words ANDed into S[0] and S[1]: the mask of R175. -/
def Sponge.and2 (s : Sponge) (b : List Byte) : Sponge :=
  { s with s0 := s.s0 &&& le64 (slice b 0 8), s1 := s.s1 &&& le64 (slice b 8 8) }

/-- The XOR of two byte sequences of one length, byte by byte. -/
def xorBytes (x y : List Byte) : List Byte := List.zipWith (· ^^^ ·) x y

/-- The AND of two byte sequences of one length, byte by byte. -/
def andBytes (x y : List Byte) : List Byte := List.zipWith (· &&& ·) x y

theorem xorBytes_length {x y : List Byte} (h : x.length = y.length) : (xorBytes x y).length = y.length := by
  simp [xorBytes, h]

theorem take_xorBytes (x y : List Byte) (n : Nat) : (xorBytes x y).take n = xorBytes (x.take n) (y.take n) :=
  List.take_zipWith

theorem xorBytes_append {x y : List Byte} (h : x.length = y.length) (x' y' : List Byte) :
    xorBytes (x ++ x') (y ++ y') = xorBytes x y ++ xorBytes x' y' := List.zipWith_append h

theorem andBytes_append {x y : List Byte} (h : x.length = y.length) (x' y' : List Byte) :
    andBytes (x ++ x') (y ++ y') = andBytes x y ++ andBytes x' y' := List.zipWith_append h

theorem xorBytes_xorBytes {x y : List Byte} (h : x.length = y.length) : xorBytes x (xorBytes x y) = y := by
  induction x generalizing y with
  | nil => exact (List.length_eq_zero_iff.mp h.symm).symm
  | cons b bs ih =>
    cases y with
    | nil => cases h
    | cons c cs =>
      show (b ^^^ (b ^^^ c)) :: xorBytes bs (xorBytes bs cs) = c :: cs
      rw [← BitVec.xor_assoc, BitVec.xor_self, BitVec.zero_xor, ih (Nat.succ.inj h)]

/-- Each byte of a sequence combined with one and the same byte. -/
theorem zipWith_replicate_right (f : Byte → Byte → Byte) (x : List Byte) (c : Byte) :
    List.zipWith f x (List.replicate x.length c) = x.map (f · c) := by
  induction x with
  | nil => rfl
  | cons b bs ih => exact congrArg (f b c :: ·) ih

theorem xorBytes_zeroBytes {x : List Byte} {n : Nat} (h : x.length = n) : xorBytes x (zeroBytes n) = x := by
  subst h
  rw [xorBytes, zeroBytes, zipWith_replicate_right]
  simp

theorem zeroBytes_xorBytes {x : List Byte} {n : Nat} (h : x.length = n) : xorBytes (zeroBytes n) x = x := by
  rw [xorBytes, List.zipWith_comm_of_comm BitVec.xor_comm]
  exact xorBytes_zeroBytes h

theorem andBytes_zeroBytes {x : List Byte} {n : Nat} (h : x.length = n) : andBytes x (zeroBytes n) = zeroBytes n := by
  subst h
  rw [andBytes, zeroBytes, zipWith_replicate_right]
  simp

theorem andBytes_ones {x : List Byte} {n : Nat} (h : x.length = n) : andBytes x (List.replicate n 0xFF) = x := by
  subst h
  have hones : x.map (· &&& 0xFF) = x.map id := List.map_congr_left fun _ _ => BitVec.and_allOnes
  rw [andBytes, zipWith_replicate_right, hones, List.map_id]

theorem bytes8_xor (v w : Word) : bytes8 (v ^^^ w) = xorBytes (bytes8 v) (bytes8 w) := by
  simp only [bytes8, BitVec.extractLsb'_xor]
  rfl

theorem bytes8_and (v w : Word) : bytes8 (v &&& w) = andBytes (bytes8 v) (bytes8 w) := by
  simp only [bytes8, BitVec.extractLsb'_and]
  rfl

@[simp] theorem Sponge.rate_length (s : Sponge) : s.rate.length = 16 := rfl

theorem slice_append_slice {b : List Byte} (h : b.length = 16) : slice b 0 8 ++ slice b 8 8 = b := by
  rw [slice, slice, List.drop_zero, List.take_of_length_le (l := b.drop 8) (by simp [h]), List.take_append_drop]

@[simp] theorem Sponge.setRate_rate (s t : Sponge) : s.setRate t.rate = { s with s0 := t.s0, s1 := t.s1 } := by
  calc _ = { s with s0 := le64 (bytes8 t.s0), s1 := le64 (bytes8 t.s1) } := rfl
    _ = _ := by rw [le64_bytes8, le64_bytes8]

theorem Sponge.rate_setRate (s : Sponge) {b : List Byte} (h : b.length = 16) : (s.setRate b).rate = b := by
  calc _ = bytes8 (le64 (slice b 0 8)) ++ bytes8 (le64 (slice b 8 8)) := rfl
    _ = b := by
      rw [bytes8_le64 (by simp [slice, h]), bytes8_le64 (by simp [slice, h]), slice_append_slice h]

theorem Sponge.rate_xor2 (s : Sponge) {b : List Byte} (h : b.length = 16) : (s.xor2 b).rate = xorBytes s.rate b := by
  calc _ = bytes8 (s.s0 ^^^ (s.setRate b).s0) ++ bytes8 (s.s1 ^^^ (s.setRate b).s1) := rfl
    _ = xorBytes s.rate (s.setRate b).rate := by rw [bytes8_xor, bytes8_xor, rate, rate, xorBytes_append (by simp)]
    _ = xorBytes s.rate b := by rw [s.rate_setRate h]

theorem Sponge.rate_and2 (s : Sponge) {b : List Byte} (h : b.length = 16) : (s.and2 b).rate = andBytes s.rate b := by
  calc _ = bytes8 (s.s0 &&& (s.setRate b).s0) ++ bytes8 (s.s1 &&& (s.setRate b).s1) := rfl
    _ = andBytes s.rate (s.setRate b).rate := by rw [bytes8_and, bytes8_and, rate, rate, andBytes_append (by simp)]
    _ = andBytes s.rate b := by rw [s.rate_setRate h]

/-- Only the rate of a state that a block was XORed into differs from the state's. -/
theorem Sponge.setRate_rate_xor2 (s : Sponge) (b : List Byte) : s.setRate (s.xor2 b).rate = s.xor2 b :=
  s.setRate_rate _

/-- XORing in what XORing in `b` left of the rate gives `b` back. -/
theorem Sponge.rate_xor2_rate_xor2 (s : Sponge) {b : List Byte} (h : b.length = 16) :
    (s.xor2 (s.xor2 b).rate).rate = b := by
  rw [s.rate_xor2 rfl, s.rate_xor2 h, xorBytes_xorBytes (s.rate_length.trans h.symm)]

end Sys2Proof.Machine
end

section
/-! PROOFS. The block loops of AEAD (spec/42_aead.md R174, R175): the sequence as full blocks and a last one, and the
bodies of encryption and decryption over such a split. -/

namespace Sys2Proof.Machine

/-- The first blocks of joined blocks are those blocks. -/
theorem blocks_flatten_append {r : Nat} {bs : List (List Byte)} (h : ∀ b ∈ bs, b.length = r) (x : List Byte) :
    blocks r bs.length (bs.flatten ++ x) = bs := by
  induction bs with
  | nil => rfl
  | cons b bs ih =>
    obtain ⟨hb, hbs⟩ := List.forall_mem_cons.mp h
    rw [List.length_cons, blocks, List.flatten_cons, List.append_assoc, ← hb, List.take_left, List.drop_left, hb,
      ih hbs]

theorem flatten_length {r : Nat} {bs : List (List Byte)} (h : ∀ b ∈ bs, b.length = r) :
    bs.flatten.length = r * bs.length := by
  rw [List.length_flatten, List.map_congr_left h]
  simp [Nat.mul_comm]

/-- Joined blocks are cut into those blocks. -/
theorem blocks_flatten_concat {r : Nat} {bs : List (List Byte)} {last : List Byte} (h : ∀ b ∈ bs, b.length = r)
    (hl : last.length = r) : blocks r (bs.length + 1) (bs.flatten ++ last) = bs ++ [last] := by
  have hall : ∀ b ∈ bs ++ [last], b.length = r := by simpa [or_imp, forall_and] using And.intro h hl
  simpa using blocks_flatten_append hall []

/-- The blocks but the last, and the last, of a sequence that is cut whole. -/
theorem blocks_eq_append {r k : Nat} {x last : List Byte} {front : List (List Byte)} (hx : x.length = r * (k + 1))
    (h : blocks r (k + 1) x = front ++ [last]) :
    blocks r k x = front ∧ slice x (r * k) r = last ∧ (∀ b ∈ front, b.length = r) ∧ last.length = r := by
  have hlen := blocks_block_length r (k + 1) x hx.ge
  have hflat := blocks_flatten r (k + 1) x hx.ge
  rw [h, ← hx, List.take_length, List.flatten_concat] at hflat
  rw [h] at hlen
  have hfront : ∀ b ∈ front, b.length = r := fun b hb => hlen b (List.mem_append_left _ hb)
  have hlast : last.length = r := hlen last (List.mem_append_right _ (List.mem_singleton_self last))
  have hk : front.length = k := by simpa using (congrArg List.length h).symm
  have hfl : front.flatten.length = r * k := hk ▸ flatten_length hfront
  refine ⟨?_, ?_, hfront, hlast⟩
  · rw [← hflat, ← hk, blocks_flatten_append hfront]
  · rw [← hflat, slice, ← hfl, List.drop_left, List.take_of_length_le hlast.le]

/-- What the last block emits: the first `l` of the 16 bytes. -/
theorem take_rate (s : Sponge) (l : Nat) :
    (bytes8 s.s0).take (min 8 l) ++ (bytes8 s.s1).take (l - 8) = s.rate.take l := by
  rw [Nat.min_comm, ← List.take_take, Sponge.rate, List.take_append]
  rfl

theorem slice_slice (b : List Byte) (i : Nat) {j m n : Nat} (h : j + n ≤ m) :
    slice (slice b i m) j n = slice b (i + j) n := by
  rw [slice, slice, slice, List.drop_take, List.take_take, List.drop_drop, Nat.min_eq_left (by omega)]

/-- The body of encryption, by the blocks of the padded plaintext (R174). -/
theorem aeadEncBody_eq {pt last : List Byte} {front : List (List Byte)} (h : padBlocks pt 16 = front ++ [last])
    (s : Sponge) : aeadEncBody pt s =
      ((aeadEncBlocks front s).1 ++ ((aeadEncBlocks front s).2.xor2 last).rate.take (pt.length % 16),
        (aeadEncBlocks front s).2.xor2 last) := by
  have hlen := pad_length_eq_mul pt (r := 16) (by decide)
  rw [padBlocks_eq pt (by decide)] at h
  obtain ⟨hfront, hlast, -, hl⟩ := blocks_eq_append hlen h
  simp only [aeadEncBody, hlen, Nat.mul_div_cancel_left _ (show 0 < 16 by decide), Nat.add_sub_cancel, hfront, hlast,
    xorBlock_two _ _ hl, Nat.zero_max, List.append_assoc, take_rate]

/-- Zero-filled to blocks, a ciphertext has one block more than it has full ones (R175). -/
theorem zeroFill_length (ct : List Byte) :
    (ct ++ zeroBytes (16 - ct.length % 16)).length = 16 * (ct.length / 16 + 1) := by
  rw [List.length_append, zeroBytes_length]
  omega

/-- The body of decryption, by the blocks of the zero-filled ciphertext (R175). -/
theorem aeadDecBody_eq {ct last : List Byte} {front : List (List Byte)}
    (h : blocks 16 (ct.length / 16 + 1) (ct ++ zeroBytes (16 - ct.length % 16)) = front ++ [last]) (s : Sponge) :
    aeadDecBody ct s =
      ((aeadDecBlocks front s).1 ++ ((aeadDecBlocks front s).2.xor2 last).rate.take (ct.length % 16),
        aeadDecLast (ct.length % 16) (le64 (slice last 0 8)) (le64 (slice last 8 8)) (aeadDecBlocks front s).2) := by
  have hlen := zeroFill_length ct
  obtain ⟨hfront, hlast, -, -⟩ := blocks_eq_append hlen h
  simp only [← hlast, slice_slice _ _ (show 0 + 8 ≤ 16 by decide), slice_slice _ _ (show 8 + 8 ≤ 16 by decide),
    aeadDecBody, hlen, Nat.mul_div_cancel_left _ (show 0 < 16 by decide), Nat.add_sub_cancel, hfront]
  simp only [Sponge.xor2, Sponge.rate, slice_slice _ _ (show 0 + 8 ≤ 16 by decide),
    slice_slice _ _ (show 8 + 8 ≤ 16 by decide), Nat.add_zero]

/-- One full block of encryption (R174): the ciphertext so far and the state. -/
def encBlockStep (p : List Byte × Sponge) (b : List Byte) : List Byte × Sponge :=
  (p.1 ++ bytes8 (p.2.xor2 b).s0 ++ bytes8 (p.2.xor2 b).s1, permute 8 (p.2.xor2 b))

/-- One full block of decryption (R175): the plaintext so far and the state. -/
def decBlockStep (p : List Byte × Sponge) (b : List Byte) : List Byte × Sponge :=
  (p.1 ++ bytes8 (p.2.s0 ^^^ le64 (slice b 0 8)) ++ bytes8 (p.2.s1 ^^^ le64 (slice b 8 8)), permute 8 (p.2.setRate b))

theorem aeadEncBlocks_cons {b : List Byte} (h : b.length = 16) (bs : List (List Byte)) (s : Sponge) :
    aeadEncBlocks (b :: bs) s = ((s.xor2 b).rate ++ (aeadEncBlocks bs (permute 8 (s.xor2 b))).1,
      (aeadEncBlocks bs (permute 8 (s.xor2 b))).2) := by
  rw [aeadEncBlocks, xorBlock_two s b h, Sponge.rate]

theorem aeadDecBlocks_cons (b : List Byte) (bs : List (List Byte)) (s : Sponge) :
    aeadDecBlocks (b :: bs) s = ((s.xor2 b).rate ++ (aeadDecBlocks bs (permute 8 (s.setRate b))).1,
      (aeadDecBlocks bs (permute 8 (s.setRate b))).2) := rfl

theorem foldl_encBlockStep {bs : List (List Byte)} (h : ∀ b ∈ bs, b.length = 16) (x : List Byte) (s : Sponge) :
    bs.foldl encBlockStep (x, s) = (x ++ (aeadEncBlocks bs s).1, (aeadEncBlocks bs s).2) := by
  induction bs generalizing x s with
  | nil => rw [aeadEncBlocks, List.append_nil, List.foldl_nil]
  | cons b bs ih =>
    obtain ⟨hb, hbs⟩ := List.forall_mem_cons.mp h
    rw [aeadEncBlocks_cons hb, List.foldl_cons, encBlockStep, ih hbs, Sponge.rate]
    simp only [List.append_assoc]

theorem foldl_decBlockStep (bs : List (List Byte)) (x : List Byte) (s : Sponge) :
    bs.foldl decBlockStep (x, s) = (x ++ (aeadDecBlocks bs s).1, (aeadDecBlocks bs s).2) := by
  induction bs generalizing x s with
  | nil => rw [aeadDecBlocks, List.append_nil, List.foldl_nil]
  | cons b bs ih =>
    rw [aeadDecBlocks_cons, List.foldl_cons, decBlockStep, ih]
    simp only [Sponge.rate, Sponge.xor2, List.append_assoc]

/-- Settles O57: the bodies by their blocks, and the full blocks as a fold. -/
theorem aeadBlockLoops : Obligations.AeadBlockLoops := by
  constructor
  · intro k0 k1 n0 n1 ad pt front last h l e y
    have hlen : ∀ b ∈ front, b.length = 16 := fun b hb =>
      padBlocks_block_length pt (r := 16) (by decide) b (h ▸ List.mem_append_left _ hb)
    have he : e = aeadEncBlocks front (aeadAbsorbAD ad (aeadInit k0 k1 n0 n1)) := foldl_encBlockStep hlen [] _
    rw [aeadEncrypt, aeadEncBody_eq h, ← he, ← take_rate, ← List.append_assoc]
  · intro k0 k1 n0 n1 ad ct front last l h e c0 c1 mk pd
    have he : e = aeadDecBlocks front (aeadAbsorbAD ad (aeadInit k0 k1 n0 n1)) := foldl_decBlockStep front [] _
    rw [aeadDecrypt, aeadDecBody_eq h, ← he]
    rfl

end Sys2Proof.Machine
end

section
/-! PROOFS. Decryption undoes encryption (spec/42_aead.md R177): the full blocks by induction, the last block byte by
byte, then the whole body. -/

namespace Sys2Proof.Machine

/-- The mask of R175: it keeps all but the first `l` of the 16 bytes. -/
def decMask (l : Nat) : List Byte := zeroBytes l ++ List.replicate (16 - l) 0xFF

theorem decMask_length {l : Nat} (h : l < 16) : (decMask l).length = 16 := by
  simp [decMask]
  omega

/-- The padding of a last block of `l` bytes (R141). -/
def padTail (l : Nat) : List Byte := [0x01] ++ zeroBytes (15 - l)

theorem padTail_length {l : Nat} (h : l < 16) : (padTail l).length = 16 - l := by
  simp [padTail]
  omega

theorem padBlock_length {x : List Byte} (h : x.length < 16) : (x ++ padTail x.length).length = 16 := by
  rw [List.length_append, padTail_length h]
  omega

/-- The full blocks of decryption give back what those of encryption absorbed, and end in the same state. -/
theorem aeadDecBlocks_aeadEncBlocks {bs : List (List Byte)} (h : ∀ b ∈ bs, b.length = 16) (s : Sponge) :
    aeadDecBlocks (blocks 16 bs.length (aeadEncBlocks bs s).1) s = (bs.flatten, (aeadEncBlocks bs s).2) := by
  induction bs generalizing s with
  | nil => rfl
  | cons b bs ih =>
    obtain ⟨hb, hbs⟩ := List.forall_mem_cons.mp h
    have hrate := (s.xor2 b).rate_length
    rw [aeadEncBlocks_cons hb, List.length_cons, blocks, List.take_left' hrate, List.drop_left' hrate,
      aeadDecBlocks_cons, s.rate_xor2_rate_xor2 hb, s.setRate_rate_xor2, ih hbs, List.flatten_cons]

/-- The last block of decryption (R175), on a block `x` of which the ciphertext is `l` bytes: the mask, the ciphertext
and the padding bit in turn. -/
theorem aeadDecLast_eq (l : Nat) (x : List Byte) (s : Sponge) :
    aeadDecLast l (le64 (slice x 0 8)) (le64 (slice x 8 8)) s =
      ((s.and2 (decMask l)).xor2 x).xor2 (zeroBytes l ++ padTail l) := by
  rw [padTail, ← List.append_assoc]
  rfl

/-- Byte by byte, (old & mask) ^ cipher ^ paddingBit is the rate `x` with the padded block XORed in, where the
ciphertext is the first bytes of that and the rest is zero. -/
theorem rebuilt_rate {x p : List Byte} (hx : x.length = 16) (hp : p.length < 16) :
    xorBytes (xorBytes (andBytes x (decMask p.length))
      ((xorBytes x (p ++ padTail p.length)).take p.length ++ zeroBytes (16 - p.length)))
      (zeroBytes p.length ++ padTail p.length) = xorBytes x (p ++ padTail p.length) := by
  obtain ⟨y, z, rfl, hy⟩ : ∃ y z, x = y ++ z ∧ y.length = p.length :=
    ⟨x.take p.length, x.drop p.length, (List.take_append_drop ..).symm, by rw [List.length_take]; omega⟩
  have hz : z.length = 16 - p.length := by rw [List.length_append] at hx; omega
  have hyp : (xorBytes y p).length = p.length := xorBytes_length hy
  have hmask : andBytes (y ++ z) (decMask p.length) = zeroBytes p.length ++ z := by
    rw [decMask, andBytes_append (hy.trans (zeroBytes_length _).symm), andBytes_zeroBytes hy, andBytes_ones hz]
  rw [xorBytes_append hy, List.take_left' hyp, hmask, xorBytes_append ((zeroBytes_length _).trans hyp.symm),
    zeroBytes_xorBytes hyp, xorBytes_zeroBytes hz, xorBytes_append (hyp.trans (zeroBytes_length _).symm),
    xorBytes_zeroBytes hyp]

/-- What encryption emits of its last block. -/
def cipherTail (s : Sponge) (p : List Byte) : List Byte := (s.xor2 (p ++ padTail p.length)).rate.take p.length

theorem cipherTail_length (s : Sponge) {p : List Byte} (hp : p.length < 16) : (cipherTail s p).length = p.length := by
  rw [cipherTail, List.length_take, Sponge.rate_length]
  omega

/-- The same, zero-filled as decryption reads it. -/
def lastCipher (s : Sponge) (p : List Byte) : List Byte := cipherTail s p ++ zeroBytes (16 - p.length)

theorem lastCipher_length (s : Sponge) {p : List Byte} (hp : p.length < 16) : (lastCipher s p).length = 16 := by
  rw [lastCipher, List.length_append, cipherTail_length s hp, zeroBytes_length]
  omega

/-- The last block of decryption leaves the state that encryption left. -/
theorem aeadDecLast_lastCipher (s : Sponge) {p : List Byte} (hp : p.length < 16) :
    aeadDecLast p.length (le64 (slice (lastCipher s p) 0 8)) (le64 (slice (lastCipher s p) 8 8)) s =
      s.xor2 (p ++ padTail p.length) := by
  have hpd : (zeroBytes p.length ++ padTail p.length).length = 16 := by
    simpa using padBlock_length (x := zeroBytes p.length) (by simpa using hp)
  have hrate : (((s.and2 (decMask p.length)).xor2 (lastCipher s p)).xor2
      (zeroBytes p.length ++ padTail p.length)).rate = (s.xor2 (p ++ padTail p.length)).rate := by
    rw [Sponge.rate_xor2 _ hpd, Sponge.rate_xor2 _ (lastCipher_length s hp), s.rate_and2 (decMask_length hp),
      lastCipher, cipherTail, s.rate_xor2 (padBlock_length hp), rebuilt_rate s.rate_length hp]
  rw [aeadDecLast_eq, ← s.setRate_rate_xor2 (p ++ padTail p.length), ← hrate, s.setRate_rate]
  rfl

/-- The last block of decryption gives the plaintext bytes back. -/
theorem take_rate_xor2_lastCipher (s : Sponge) {p : List Byte} (hp : p.length < 16) :
    (s.xor2 (lastCipher s p)).rate.take p.length = p := by
  have hback := s.rate_xor2_rate_xor2 (padBlock_length hp)
  rw [Sponge.rate_xor2 _ (Sponge.rate_length _)] at hback
  calc _ = xorBytes (s.rate.take p.length) (cipherTail s p) := by
        rw [s.rate_xor2 (lastCipher_length s hp), take_xorBytes, lastCipher, List.take_left' (cipherTail_length s hp)]
    _ = p := by rw [cipherTail, ← take_xorBytes, hback, List.take_left]

/-- Every sequence is full blocks and fewer than 16 bytes after them. -/
theorem exists_blocks_append (x : List Byte) : ∃ (bs : List (List Byte)) (p : List Byte),
    x = bs.flatten ++ p ∧ (∀ b ∈ bs, b.length = 16) ∧ p.length < 16 := by
  have hle : 16 * (x.length / 16) ≤ x.length := Nat.mul_div_le ..
  refine ⟨blocks 16 (x.length / 16) x, x.drop (16 * (x.length / 16)), ?_, blocks_block_length 16 _ x hle, ?_⟩
  · rw [blocks_flatten 16 _ x hle, List.take_append_drop]
  · rw [List.length_drop]
    omega

section
variable {bs : List (List Byte)} {p : List Byte} (hbs : ∀ b ∈ bs, b.length = 16) (hp : p.length < 16)
include hbs hp

theorem flatten_append_length_div : (bs.flatten ++ p).length / 16 = bs.length := by
  rw [List.length_append, flatten_length hbs]
  omega

theorem flatten_append_length_mod : (bs.flatten ++ p).length % 16 = p.length := by
  rw [List.length_append, flatten_length hbs]
  omega

/-- The padding goes to the bytes after the full blocks. -/
theorem padBlocks_flatten_append : padBlocks (bs.flatten ++ p) 16 = bs ++ [p ++ padTail p.length] := by
  have hpad : pad (bs.flatten ++ p) 16 = bs.flatten ++ (p ++ padTail p.length) := by
    rw [pad, flatten_append_length_mod hbs hp, padTail, show 16 - p.length - 1 = 15 - p.length by omega]
    simp only [List.append_assoc]
  rw [padBlocks_eq _ (by decide), flatten_append_length_div hbs hp, hpad,
    blocks_flatten_concat hbs (padBlock_length hp)]

/-- So does the zero fill of a ciphertext (R175). -/
theorem blocks_zeroFill : blocks 16 ((bs.flatten ++ p).length / 16 + 1)
    (bs.flatten ++ p ++ zeroBytes (16 - (bs.flatten ++ p).length % 16)) = bs ++ [p ++ zeroBytes (16 - p.length)] := by
  have hlast : (p ++ zeroBytes (16 - p.length)).length = 16 := by
    rw [List.length_append, zeroBytes_length]
    omega
  rw [flatten_append_length_div hbs hp, flatten_append_length_mod hbs hp, List.append_assoc,
    blocks_flatten_concat hbs hlast]

/-- The bodies over full blocks and the bytes after them (R174, R175). -/
theorem aeadEncBody_flatten_append (s : Sponge) : aeadEncBody (bs.flatten ++ p) s =
    ((aeadEncBlocks bs s).1 ++ cipherTail (aeadEncBlocks bs s).2 p,
      (aeadEncBlocks bs s).2.xor2 (p ++ padTail p.length)) := by
  rw [aeadEncBody_eq (padBlocks_flatten_append hbs hp), flatten_append_length_mod hbs hp, cipherTail]

theorem aeadDecBody_flatten_append {last : List Byte} (hlast : last = p ++ zeroBytes (16 - p.length)) (s : Sponge) :
    aeadDecBody (bs.flatten ++ p) s =
      ((aeadDecBlocks bs s).1 ++ ((aeadDecBlocks bs s).2.xor2 last).rate.take p.length,
        aeadDecLast p.length (le64 (slice last 0 8)) (le64 (slice last 8 8)) (aeadDecBlocks bs s).2) := by
  rw [aeadDecBody_eq (blocks_zeroFill hbs hp), flatten_append_length_mod hbs hp, hlast]

end

/-- The body of decryption undoes that of encryption and ends in the same state (R177). -/
theorem aeadDecBody_aeadEncBody (pt : List Byte) (s : Sponge) :
    aeadDecBody (aeadEncBody pt s).1 s = (pt, (aeadEncBody pt s).2) := by
  obtain ⟨bs, p, rfl, hbs, hp⟩ := exists_blocks_append pt
  have hle : 16 * bs.length ≤ (aeadEncBlocks bs s).1.length := (aeadEncBlocks_length bs s).ge
  have hcut : (blocks 16 bs.length (aeadEncBlocks bs s).1).flatten = (aeadEncBlocks bs s).1 := by
    rw [blocks_flatten 16 _ _ hle, ← aeadEncBlocks_length bs s, List.take_length]
  have htail := cipherTail_length (aeadEncBlocks bs s).2 hp
  have hdec := aeadDecBody_flatten_append (blocks_block_length 16 _ _ hle) (htail.trans_lt hp)
    (last := lastCipher (aeadEncBlocks bs s).2 p) (by rw [htail, lastCipher]) s
  rw [hcut, htail, aeadDecBlocks_aeadEncBlocks hbs, take_rate_xor2_lastCipher _ hp, aeadDecLast_lastCipher _ hp] at hdec
  rw [aeadEncBody_flatten_append hbs hp, hdec]

/-- Settles O38: both bodies start in the state that the associated data leaves, and finalise the same state. -/
theorem decryptUndoesEncrypt : Obligations.DecryptUndoesEncrypt := by
  intro k0 k1 n0 n1 ad pt
  have hlen := aeadEncBody_length pt (aeadAbsorbAD ad (aeadInit k0 k1 n0 n1))
  rw [aeadEncrypt, List.take_left' hlen, List.drop_left' hlen, aeadDecrypt, aeadDecBody_aeadEncBody]

end Sys2Proof.Machine
end

section
/-! PROOFS. The AEAD commands (spec/42_aead.md R174 to R177): how a face command ends by its checks and its output, and
the round trip of the machine. -/

namespace Sys2Proof.Machine

/-- A face command that fails a check changes STATUS only (60_exceptions.md R241). -/
theorem exec_invalidParam_onlyStatus {i : Instr} {s : State} (hi : usesRegions i = true) (hp : ¬paramsOk i s) :
    ∃ t, exec i s = .next t ∧ OnlyStatus s t .invalidParam :=
  ⟨_, exec_invalidParam hi hp, complete_onlyStatus s .invalidParam⟩

theorem exec_range_onlyStatus {i : Instr} {s : State} (hi : usesRegions i = true) (hp : paramsOk i s)
    (hfit : ¬RegionsFit (usesAux i) s) : ∃ t, exec i s = .next t ∧ OnlyStatus s t .range :=
  ⟨_, exec_range hi hp hfit, complete_onlyStatus s .range⟩

/-- A face command whose checks pass and that has an output stores it (R148). -/
theorem exec_faceDone {i : Instr} {s : State} {y : List Byte} (hi : usesRegions i = true) (hp : paramsOk i s)
    (hfit : RegionsFit (usesAux i) s) (hy : faceOutput i s = some y) :
    ∃ t, exec i s = .next t ∧ FaceDone s t (decide (i = .aeadDec)) y := by
  have hdone := finishFace_done s (decide (i = .aeadDec)) y (faceOutput_length hp hy)
  rw [exec_endFace hi hp hfit, hy]
  exact ⟨_, rfl, hdone⟩

/-- Settles O21: the command by the first check that fails. -/
theorem aeadEncMeetsItsRule : Obligations.AeadEncMeetsItsRule :=
  ⟨decodeOfEncode .aeadEnc rfl, fun _ => ⟨fun hp hfit => exec_faceDone rfl hp hfit rfl,
    fun hp => exec_invalidParam_onlyStatus rfl hp, fun hp hfit => exec_range_onlyStatus rfl hp hfit⟩⟩

/-- The plaintext and the tag that AEAD.DEC computes from its operands (R175). -/
def State.decrypted (s : State) : List Byte × List Byte :=
  aeadDecrypt s.key0 s.key1 s.nonce0 s.nonce1 (auxBytes s) ((inBytes s).take (s.inLen.toNat - 16))

/-- AEAD.DEC has the plaintext as its output exactly if the tags are equal (R176). -/
theorem faceOutput_aeadDec_of_eq {s : State} (h : s.decrypted.2 = (inBytes s).drop (s.inLen.toNat - 16)) :
    faceOutput .aeadDec s = some s.decrypted.1 := if_pos h

theorem faceOutput_aeadDec_of_ne {s : State} (h : s.decrypted.2 ≠ (inBytes s).drop (s.inLen.toNat - 16)) :
    faceOutput .aeadDec s = none := if_neg h

/-- AEAD.DEC without an output: S is zero, no byte is written, ERR = AUTH_FAIL (R176; 60_exceptions.md R241). -/
theorem exec_aeadDec_authFail {s : State} (hp : paramsOk .aeadDec s) (hfit : RegionsFit true s)
    (h : faceOutput .aeadDec s = none) : ∃ t, exec .aeadDec s = .next t ∧ t.sponge = Sponge.zero ∧ SameBytes s t ∧
      KeepsKeys s t ∧ KeepsRest s t ∧ Completed t .authFail false := by
  have hends : Ends .aeadDec s _ := .authFail rfl
  have hstatus := (complete_onlyStatus s.zeroSponge .authFail).status
  rw [exec_endFace rfl hp hfit, h]
  exact ⟨_, rfl, rfl, hends.sameBytes nofun, hends.keepsKeys nofun, hends.keepsRest, hstatus⟩

/-- Settles O22: the command by the first check that fails, then by the comparison of the tags. -/
theorem aeadDecMeetsItsRule : Obligations.AeadDecMeetsItsRule := by
  refine ⟨decodeOfEncode .aeadDec rfl, fun s => ⟨fun hin hout hfit => ⟨fun htag => ?_, fun htag => ?_⟩, fun hp => ?_,
    fun hin hout hfit => exec_range_onlyStatus rfl ⟨hin, hout⟩ hfit⟩⟩
  · exact exec_faceDone rfl ⟨hin, hout⟩ hfit (faceOutput_aeadDec_of_eq htag)
  · exact exec_aeadDec_authFail ⟨hin, hout⟩ hfit (faceOutput_aeadDec_of_ne htag)
  · refine exec_invalidParam_onlyStatus rfl fun ⟨hin, hout⟩ => ?_
    omega

/-- A face command that ends with ERR = OK passed its checks. -/
theorem checks_of_exec_ok {i : Instr} {s t : State} (hi : usesRegions i = true) (h : exec i s = .next t)
    (hok : t.err = .ok) : paramsOk i s ∧ RegionsFit (usesAux i) s := by
  by_cases hp : paramsOk i s
  · by_cases hfit : RegionsFit (usesAux i) s
    · exact ⟨hp, hfit⟩
    · cases (exec_range hi hp hfit).symm.trans h
      cases hok
  · cases (exec_invalidParam hi hp).symm.trans h
    cases hok

/-- The state `t` with its region registers set to decrypt, in place, the output region of `s` (R177). -/
def State.decInPlace (s t : State) : State :=
  { t with inPtr := s.outPtr, inLen := s.outLen, outPtr := s.outPtr, outLen := s.inLen }

/-- What encryption keeps is as in `s` for the decryption. -/
theorem decInPlace_keeps {s t : State} (h : KeepsRest s t) : (s.decInPlace t).auxPtr = s.auxPtr ∧
    (s.decInPlace t).auxLen = s.auxLen ∧ (s.decInPlace t).cfg = s.cfg :=
  ⟨h.auxPtr, h.auxLen, h.cfg⟩

theorem keepsKeys_decInPlace {s t : State} (h : KeepsKeys s t) : KeepsKeys s (s.decInPlace t) :=
  ⟨h.key0, h.key1, h.nonce0, h.nonce1⟩

theorem paramsOk_decInPlace {s : State} (hp : paramsOk .aeadEnc s) (t : State) :
    paramsOk .aeadDec (s.decInPlace t) := by
  have hlen : s.outLen.toNat = s.inLen.toNat + 16 := hp
  show 16 ≤ s.outLen.toNat ∧ s.inLen.toNat = s.outLen.toNat - 16
  omega

section
variable {s t : State} {y : List Byte} (hp : paramsOk .aeadEnc s) (hfit : RegionsFit true s)
  (h : FaceDone s t false y)
include hp hfit h

/-- Encryption leaves the bytes of AUX alone: OUT is not empty and does not overlap it (R143). -/
theorem auxBytes_decInPlace : auxBytes (s.decInPlace t) = auxBytes s := by
  have hlen : s.outLen.toNat = s.inLen.toNat + 16 := hp
  obtain ⟨haux, _⟩ := hfit
  obtain ⟨_, hapart⟩ := haux rfl
  obtain ⟨hptr, hauxLen, _⟩ := decInPlace_keeps h.rest
  rw [auxBytes, auxBytes, hptr, hauxLen]
  refine memRead_congr fun i hi => (h.outside _ ?_ : t.byteAt _ = _)
  omega

/-- IN is the old OUT, and OUT is a part of it with the same start, so it meets AUX no more than before. -/
theorem regionsFit_decInPlace : RegionsFit true (s.decInPlace t) := by
  have hlen : s.outLen.toNat = s.inLen.toNat + 16 := hp
  obtain ⟨haux, _, hout, _⟩ := hfit
  obtain ⟨hauxIn, hapart⟩ := haux rfl
  obtain ⟨hptr, hauxLen, hcfg⟩ := decInPlace_keeps h.rest
  rw [RegionsFit, hptr, hauxLen, hcfg]
  refine ⟨fun _ => ⟨hauxIn, ?_⟩, hout, ?_, fun _ => rfl⟩
  · show ¬Overlap s.outPtr.toNat s.inLen.toNat s.auxPtr.toNat s.auxLen.toNat
    omega
  · show s.outPtr.toNat + s.inLen.toNat ≤ s.cfg.bufBytes
    omega

end

/-- AEAD.DEC reads what AEAD.ENC wrote, so the algorithm's round trip gives its output. -/
theorem faceOutput_decInPlace {s t : State} (hp : paramsOk .aeadEnc s) (hfit : RegionsFit true s)
    (h : FaceDone s t false (aeadEncrypt s.key0 s.key1 s.nonce0 s.nonce1 (auxBytes s) (inBytes s))) :
    faceOutput .aeadDec (s.decInPlace t) = some (inBytes s) := by
  have hlen : (s.decInPlace t).inLen.toNat - 16 = (inBytes s).length := by
    rw [inBytes, memRead_length]
    exact Nat.sub_eq_of_eq_add hp
  have hin : inBytes (s.decInPlace t) = aeadEncrypt s.key0 s.key1 s.nonce0 s.nonce1 (auxBytes s) (inBytes s) := by
    rw [← h.output]
    exact memRead_congr fun _ _ => rfl
  have hdec : (s.decInPlace t).decrypted =
      (inBytes s, (inBytes (s.decInPlace t)).drop ((s.decInPlace t).inLen.toNat - 16)) := by
    obtain ⟨hkey0, hkey1, hnonce0, hnonce1⟩ := keepsKeys_decInPlace h.keys
    rw [State.decrypted, hkey0, hkey1, hnonce0, hnonce1, auxBytes_decInPlace hp hfit h, hin, hlen]
    exact decryptUndoesEncrypt ..
  rw [faceOutput_aeadDec_of_eq (congrArg Prod.snd hdec), hdec]

/-- Settles O39: after the encryption the decryption passes its checks and has the plaintext as its output. -/
theorem decCommandUndoesEncCommand : Obligations.DecCommandUndoesEncCommand := by
  intro s t hexec hok
  obtain ⟨hp, hfit⟩ := checks_of_exec_ok rfl hexec hok
  obtain ⟨t', hexec', hdone⟩ := exec_faceDone rfl hp hfit rfl
  cases hexec.symm.trans hexec'
  obtain ⟨u, hu, hdec⟩ := exec_faceDone rfl (paramsOk_decInPlace hp t) (regionsFit_decInPlace hp hfit hdone)
    (faceOutput_decInPlace hp hfit hdone)
  exact ⟨u, hu, hdec.status.err, hdec.status.authok, hdec.output⟩

end Sys2Proof.Machine
end

section
/-! PROOFS. The Hash/XOF face (spec/43_hash.md R200 to R207): absorption and both squeezes as folds, the prefix laws of
the squeezes (spec/44_mac.md R222, R226), and the commands HASH256, XOF128 and CXOF128. -/

namespace Sys2Proof.Machine

/-- Blocks of one word (R201, R202). -/
theorem absorbAll_padBlocks_8 (x : List Byte) (s : Sponge) :
    absorbAll 12 (padBlocks x 8) s = (padBlocks x 8).foldl (fun y b => permute 12 (y.xor1 b)) s := by
  rw [absorbAll_eq_foldl]
  refine List.foldl_ext _ _ _ fun y b hb => ?_
  rw [xorBlock_one y b (padBlocks_block_length x (by decide) b hb)]

/-- Round `i` of a squeeze emits its words of the state after `i` permutations (R203; 44_mac.md R222). -/
theorem squeezeWords_eq_flatMap (k : Nat) (s : Sponge) :
    squeezeWords k s = (List.range k).flatMap fun i => bytes8 ((permute 12)^[i] s).s0 := by
  induction k generalizing s with
  | zero => rfl
  | succ k ih =>
    rw [squeezeWords, ih, List.range_succ_eq_map, List.flatMap_cons, List.flatMap_map]
    rfl

theorem macSqueezeWords_eq_flatMap (k : Nat) (s : Sponge) : macSqueezeWords k s =
    (List.range k).flatMap fun i => bytes8 ((permute 12)^[i] s).s0 ++ bytes8 ((permute 12)^[i] s).s1 := by
  induction k generalizing s with
  | zero => rfl
  | succ k ih =>
    rw [macSqueezeWords, ih, List.range_succ_eq_map, List.flatMap_cons, List.flatMap_map]
    rfl

/-- Bytes emitted round by round: fewer bytes of fewer rounds are a prefix. -/
theorem take_flatMap_range_prefix (f : Nat → List Byte) {j k m n : Nat} (hjk : j ≤ k) (hmn : m ≤ n) :
    ((List.range j).flatMap f).take m <+: ((List.range k).flatMap f).take n := by
  have hrounds : List.range j <+: List.range k := by
    rw [← Nat.min_eq_left hjk, ← List.take_range]
    exact List.take_prefix ..
  exact ((hrounds.flatMap f).take m).trans (List.take_prefix_take_left hmn)

theorem squeeze_prefix {m n : Nat} (h : m ≤ n) (s : Sponge) : squeeze m s <+: squeeze n s := by
  rw [squeeze, squeeze, squeezeWords_eq_flatMap, squeezeWords_eq_flatMap]
  exact take_flatMap_range_prefix _ (by omega) h

theorem macPrfSqueeze_prefix {m n : Nat} (h : m ≤ n) (s : Sponge) : macPrfSqueeze m s <+: macPrfSqueeze n s := by
  rw [macPrfSqueeze, macPrfSqueeze, macSqueezeWords_eq_flatMap, macSqueezeWords_eq_flatMap]
  exact take_flatMap_range_prefix _ (by omega) h

theorem squeeze_eq_take {m n : Nat} (h : m ≤ n) (s : Sponge) : squeeze m s = (squeeze n s).take m := by
  simpa only [squeeze_length] using List.prefix_iff_eq_take.mp (squeeze_prefix h s)

theorem macPrfSqueeze_eq_take {m n : Nat} (h : m ≤ n) (s : Sponge) :
    macPrfSqueeze m s = (macPrfSqueeze n s).take m := by
  simpa only [macPrfSqueeze_length] using List.prefix_iff_eq_take.mp (macPrfSqueeze_prefix h s)

/-- Settles O41: the shorter output is a prefix, and its length says how much of the longer one it is. -/
theorem shorterOutputsArePrefixes : Obligations.ShorterOutputsArePrefixes :=
  fun _ _ x h => ⟨squeeze_eq_take h x, macPrfSqueeze_eq_take h x⟩

/-- Settles O58: both absorptions are folds over blocks of one word, and the squeeze goes round by round. -/
theorem hashPhasesFoldOverBlocks : Obligations.HashPhasesFoldOverBlocks := by
  refine ⟨fun _ s => absorbAll_padBlocks_8 _ s, absorbAll_padBlocks_8, fun n s => ?_,
    fun _ _ s h => squeeze_eq_take h s⟩
  rw [squeeze, squeezeWords_eq_flatMap]

/-- The outputs of the three commands, with the IV words of the rules (R204, R205, R206). -/
theorem faceOutput_hash256 (s : State) : faceOutput .hash256 s =
    some (squeeze 32 (msgAbsorb (inBytes s) (hashInit 0x0000080100CC0002))) := by
  obtain ⟨-, -, -, -, hiv, -, -⟩ := initialStatesAsWords
  rw [faceOutput, hashBytes, hiv]

theorem faceOutput_xof128 (s : State) : faceOutput .xof128 s =
    some (squeeze s.outLen.toNat (msgAbsorb (inBytes s) (hashInit 0x0000080000CC0003))) := by
  obtain ⟨-, -, -, -, -, hiv, -⟩ := initialStatesAsWords
  rw [faceOutput, hashBytes, hiv]

theorem faceOutput_cxof128 (s : State) : faceOutput .cxof128 s = some (squeeze s.outLen.toNat
    (msgAbsorb (inBytes s) (customAbsorb (auxBytes s) (hashInit 0x0000080000CC0004)))) := by
  obtain ⟨-, -, -, -, -, -, hiv⟩ := initialStatesAsWords
  rw [faceOutput, cxofBytes, hiv]

/-- Settles O23: the command by the first check that fails. -/
theorem hash256MeetsItsRule : Obligations.Hash256MeetsItsRule :=
  ⟨decodeOfEncode .hash256 rfl, fun s => ⟨fun hp hfit => exec_faceDone rfl hp hfit (faceOutput_hash256 s),
    fun hp => exec_invalidParam_onlyStatus rfl hp, fun hp hfit => exec_range_onlyStatus rfl hp hfit⟩⟩

/-- Settles O24: there is no parameter to check, so only the regions can fail. -/
theorem xof128MeetsItsRule : Obligations.Xof128MeetsItsRule :=
  ⟨decodeOfEncode .xof128 rfl, fun s => ⟨fun hfit => exec_faceDone rfl trivial hfit (faceOutput_xof128 s),
    fun hfit => exec_range_onlyStatus rfl trivial hfit⟩⟩

/-- Settles O25: the command by the first check that fails, for every AUX_LEN up to 256, zero included. -/
theorem cxof128MeetsItsRule : Obligations.Cxof128MeetsItsRule :=
  ⟨decodeOfEncode .cxof128 rfl, fun s => ⟨fun hp hfit => exec_faceDone rfl hp hfit (faceOutput_cxof128 s),
    fun hp => exec_invalidParam_onlyStatus rfl (Nat.not_le_of_lt hp),
    fun hp hfit => exec_range_onlyStatus rfl hp hfit⟩⟩

end Sys2Proof.Machine
end

section
/-! PROOFS. The MAC/PRF face (spec/44_mac.md R220 to R225): absorption as a fold over the blocks but the last, the
squeeze, and the commands MAC, PRF and PRFSHORT. -/

namespace Sys2Proof.Machine

/-- Every block but the last is followed by Perm(12), the last is not (R221). -/
theorem macBlocks_append_singleton (front : List (List Byte)) (last : List Byte) (s : Sponge) :
    macBlocks (front ++ [last]) s = xorBlock last (front.foldl (fun x b => permute 12 (xorBlock b x)) s) := by
  induction front generalizing s with
  | nil => rfl
  | cons b front ih =>
    have hcons : macBlocks (b :: (front ++ [last])) s = macBlocks (front ++ [last]) (permute 12 (xorBlock b s)) := by
      cases front <;> rfl
    rw [List.cons_append, hcons, ih, List.foldl_cons]

/-- Blocks of four words (R221). -/
theorem macBlocks_xor4 {front : List (List Byte)} {last : List Byte} (h : ∀ b ∈ front ++ [last], b.length = 32)
    (s : Sponge) : macBlocks (front ++ [last]) s = (front.foldl (fun x b => permute 12 (x.xor4 b)) s).xor4 last := by
  have hfront : front.foldl (fun x b => permute 12 (xorBlock b x)) s =
      front.foldl (fun x b => permute 12 (x.xor4 b)) s :=
    List.foldl_ext _ _ _ fun x b hb => by rw [xorBlock_four x b (h b (List.mem_append_left _ hb))]
  rw [macBlocks_append_singleton, hfront, xorBlock_four _ last (h last List.mem_concat_self)]

/-- Settles O59: the padding blocks have four words each, and the squeeze goes round by round after one Perm(12). -/
theorem macPhasesFoldOverBlocks : Obligations.MacPhasesFoldOverBlocks := by
  refine ⟨fun m s front last h => ?_, fun n s => ?_⟩
  · have hlen := padBlocks_block_length m (r := 32) (by decide)
    rw [h] at hlen
    rw [macPrfAbsorb, h, macBlocks_xor4 hlen]
  · simp only [macPrfSqueeze, macSqueezeWords_eq_flatMap, Function.iterate_succ_apply]

/-- Settles O26: the command by the first check that fails. -/
theorem macMeetsItsRule : Obligations.MacMeetsItsRule :=
  ⟨decodeOfEncode .mac rfl, fun _ => ⟨fun hp hfit => exec_faceDone rfl hp hfit rfl,
    fun hp => exec_invalidParam_onlyStatus rfl (Nat.not_le_of_lt hp),
    fun hp hfit => exec_range_onlyStatus rfl hp hfit⟩⟩

/-- Settles O27: there is no parameter to check, so only the regions can fail. -/
theorem prfMeetsItsRule : Obligations.PrfMeetsItsRule :=
  ⟨decodeOfEncode .prf rfl, fun _ => ⟨fun hfit => exec_faceDone rfl trivial hfit rfl,
    fun hfit => exec_range_onlyStatus rfl trivial hfit⟩⟩

/-- The 40 bytes PRFSHORT starts from: parameters, key, and the message filled up with zeros (R225). -/
def State.prfShortBlock (s : State) : List Byte :=
  [128, BitVec.ofNat 8 (8 * s.inLen.toNat), 76, BitVec.ofNat 8 (8 * s.outLen.toNat), 0, 0, 0, 0] ++ s.keyBytes ++
    inBytes s ++ zeroBytes (16 - s.inLen.toNat)

/-- The output of PRFSHORT; the message has IN_LEN bytes. -/
theorem faceOutput_prfshort (s : State) : faceOutput .prfshort s =
    some (let x := permute 12 (loadState s.prfShortBlock)
      (bytes8 (x.s3 ^^^ s.key0) ++ bytes8 (x.s4 ^^^ s.key1)).take s.outLen.toNat) := by
  have hin : (inBytes s).length = s.inLen.toNat := memRead_length ..
  rw [faceOutput, prfShortBytes, hin, State.prfShortBlock, State.keyBytes]

/-- Settles O28: the command by the first check that fails. -/
theorem prfshortMeetsItsRule : Obligations.PrfshortMeetsItsRule := by
  refine ⟨decodeOfEncode .prfshort rfl, fun s => ⟨fun hin hout hfit => ?_, fun hp => ?_, fun hin hout hfit => ?_⟩⟩
  · exact exec_faceDone rfl ⟨hin, hout⟩ hfit (faceOutput_prfshort s)
  · refine exec_invalidParam_onlyStatus rfl fun ⟨hin, hout⟩ => ?_
    omega
  · exact exec_range_onlyStatus rfl ⟨hin, hout⟩ hfit

end Sys2Proof.Machine
end

section
/-! PROOFS. No trap and no refusal (spec/60_exceptions.md R245; spec/20_memory.md R67), and a machine at rest
(spec/60_exceptions.md R254; spec/70_reset_and_hazards.md R278). -/

namespace Sys2Proof.Machine

/-- The core's turn answers a next state, whether a command is in flight or not. -/
theorem coreTurn_next (s : State) : ∃ t, coreTurn s = .next t := by
  cases hw : s.pending with
  | none => exact ⟨s, coreTurn_idle hw⟩
  | some w =>
    obtain ⟨t, ht, _⟩ := coreTurn_completes (busy_of_pending hw)
    exact ⟨t, ht⟩

theorem step_of_nextTurn_none {s : State} (h : s.nextTurn = none) : step s = .next s := by
  simp [step, h]

/-- Settles O11, by whose turn the step is. -/
theorem everyStepAnswersNext : Obligations.EveryStepAnswersNext := by
  intro s
  cases hn : s.nextTurn with
  | none => exact ⟨s, step_of_nextTurn_none hn⟩
  | some x =>
    cases x with
    | core =>
      rw [step_of_nextTurn_core hn]
      exact coreTurn_next s.popTurn
    | host => exact ⟨hostTurn s.popTurn, by simp [step, hn]⟩
    | reset => exact ⟨resetTurn s.popTurn, by simp [step, hn]⟩

/-- With no turn to come, nothing in flight and no statement left, no agent moves. -/
theorem nextTurn_ended {s : State} (h : s.ended = true) (hs : s.schedule = []) : s.nextTurn = none := by
  obtain ⟨hstmt, hidle⟩ := Bool.and_eq_true_iff.mp h
  have hstmt : s.hostStmt = none := Option.isNone_iff_eq_none.mp hstmt
  have hidle : s.busy = false := by simpa using hidle
  simp [State.nextTurn, hs, hidle, hstmt]

/-- Settles O54: no agent moves. That an empty schedule lets the machine rest is the model's choice (log entry 4). -/
theorem endedRunStays : Obligations.EndedRunStays :=
  fun _ h hs => step_of_nextTurn_none (nextTurn_ended h hs)

end Sys2Proof.Machine
end

section
/-! PROOFS. The code a command reports and what it then changes (spec/60_exceptions.md R241, R242). -/

namespace Sys2Proof.Machine

/-- Any command whose parameter check fails, PERM included; CLEAR has none. -/
theorem exec_of_not_paramsOk {i : Instr} {s : State} (hp : ¬paramsOk i s) :
    exec i s = .next (s.complete .invalidParam false) := by
  cases i with
  | perm n => exact exec_perm_of_gt (Nat.lt_of_not_le hp) s
  | clear => exact absurd trivial hp
  | _ => exact exec_invalidParam rfl hp

/-- A command that passes its checks succeeds, but for AEAD.DEC with a tag that differs. -/
theorem exec_err_of_checksOk {i : Instr} {s t : State} (hp : paramsOk i s)
    (hfit : usesRegions i = true → RegionsFit (usesAux i) s) (h : exec i s = .next t) :
    t.err = .ok ∨ (i = .aeadDec ∧ t.err = .authFail) := by
  cases hi : usesRegions i with
  | true =>
    obtain ⟨p, f, hexec, hparam, hbody⟩ := exec_face hi s
    rw [hexec, hparam.mpr hp, checked_body s _ f (hfit hi)] at h
    exact hbody t h
  | false =>
    cases i with
    | perm n =>
      cases (exec_perm_of_le hp s).symm.trans h
      exact .inl rfl
    | clear =>
      cases h
      exact .inl rfl
    | _ => cases hi

/-- Settles O17: a decoded command by the first check that fails. -/
theorem reportedErrorFollowsCheckOrder : Obligations.ReportedErrorFollowsCheckOrder := by
  intro s t w hw ht
  refine ⟨fun why hd => ?_, fun i hd => ?_⟩
  · cases (coreTurn_unsupported hw hd).symm.trans ht
    rfl
  · rw [coreTurn_command hw hd] at ht
    refine ⟨fun hp => ?_, fun hp hi hfit => ?_, fun hp hfit => exec_err_of_checksOk hp hfit ht⟩
    · cases (exec_of_not_paramsOk hp).symm.trans ht
      rfl
    · cases (exec_range hi hp hfit).symm.trans ht
      rfl

/-- Of the ways a command ends only a failed check has the code of a check. -/
theorem Ends.onlyStatus {i : Instr} {s t : State} (h : Ends i s t)
    (herr : t.err = .unsupported ∨ t.err = .invalidParam ∨ t.err = .range) : OnlyStatus s t t.err := by
  cases h with
  | checkError e => exact complete_onlyStatus s e
  | authFail | output | permuted | cleared => simp at herr

/-- Only AEAD.DEC ends with AUTH_FAIL, and in one state. -/
theorem Ends.eq_of_authFail {i : Instr} {s t : State} (h : Ends i s t) (herr : t.err = .authFail) :
    i = .aeadDec ∧ t = s.zeroSponge.complete .authFail false := by
  cases h with
  | checkError e he => rcases he with rfl | rfl <;> cases herr
  | authFail hi => exact ⟨hi, rfl⟩
  | output | permuted | cleared => cases herr

/-- Settles O18: a word that does not decode and a failed check end in a bare completion; AUTH_FAIL has one end, that
of AEAD.DEC with a tag that differs. -/
theorem failedCommandEffects : Obligations.FailedCommandEffects := by
  intro s t w hw ht
  rcases coreTurn_cases ht with ⟨hnone, _⟩ | ⟨_, _, _, _, rfl⟩ | ⟨_, i, _, _, hexec⟩
  · cases hnone.symm.trans hw
  · exact ⟨fun _ => complete_onlyStatus s .unsupported, nofun⟩
  · have hends := exec_cases hexec
    refine ⟨hends.onlyStatus, fun herr => ?_⟩
    obtain ⟨rfl, rfl⟩ := hends.eq_of_authFail herr
    exact ⟨rfl, hends.sameBytes nofun, hends.keepsKeys nofun, hends.keepsRest,
      (complete_onlyStatus s.zeroSponge .authFail).status⟩

end Sys2Proof.Machine
end

section
/-! PROOFS. WERR and the interrupt (spec/60_exceptions.md R244, R247): what a host write does to WERR, to DONE and to
CTRL.IE. -/

namespace Sys2Proof.Machine

/-- A guarded write sets WERR exactly while BUSY = 1. -/
theorem hostWrite_guarded_werr {s : State} {off : Offset} (h : GuardedOffset s.cfg.bufBytes off) (d : Word) :
    (s.hostWrite off d).1.werr = (s.busy || s.werr) := by
  cases hb : s.busy with
  | true =>
    rw [hostWrite_guarded_busy hb h]
    rfl
  | false =>
    obtain ⟨hwerr, _⟩ := hostWrite_guarded_idle_werr hb h d
    exact hwerr

/-- Offset 0x08 names STATUS, whose write BUSY does not guard (10_state.md R26). -/
theorem hostWrite_status {s : State} {off : Offset} (d : Word) (h : off.toNat = 0x08) :
    s.hostWrite off d = (s.writeStatus d, .okay) :=
  hostWrite_reg (r := .status) d h

/-- A write that is not of STATUS keeps WERR, or is guarded and sets it while BUSY = 1. -/
theorem hostWrite_werr_of_ne_status (s : State) {off : Offset} (d : Word) (h : off.toNat ≠ 0x08) :
    (s.hostWrite off d).1.werr = s.werr ∨ (s.hostWrite off d).1.werr = (s.busy || s.werr) := by
  cases ht : targetOf s.cfg.bufBytes off with
  | nothing => exact .inl (by rw [hostWrite_nothing d ht])
  | buf k => exact .inr (hostWrite_guarded_werr (.inr ⟨k, ht⟩) d)
  | reg r =>
    have hr := targetOf_reg.mp ht
    have hoff : off = r.off := BitVec.eq_of_toNat_eq (hr.trans r.off_toNat.symm)
    have hstatus : r ≠ .status := by
      rintro rfl
      exact h hr
    by_cases hctrl : r = .ctrl
    · exact .inl (by rw [hoff, hctrl, hostWrite_off]; rfl)
    · exact .inr (hostWrite_guarded_werr (.inl ⟨r, ⟨hctrl, hstatus⟩, hoff⟩) d)

/-- No write while idle sets WERR. -/
theorem hostWrite_werr_idle {s : State} (hb : s.busy = false) (hwerr : s.werr = false) (off : Offset) (d : Word) :
    (s.hostWrite off d).1.werr = false := by
  by_cases h : off.toNat = 0x08
  · simp [hostWrite_status d h, hwerr]
  · rcases hostWrite_werr_of_ne_status s d h with hw | hw <;> simp [hw, hb, hwerr]

/-- WERR is cleared by a write of STATUS with bit 2 = 1 and by no other write. -/
theorem hostWrite_clears_werr {s : State} (hwerr : s.werr = true) (off : Offset) (d : Word) :
    (s.hostWrite off d).1.werr = false ↔ off.toNat = 0x08 ∧ d.getLsbD 2 = true := by
  by_cases h : off.toNat = 0x08
  · simp [hostWrite_status d h, hwerr, h]
  · rcases hostWrite_werr_of_ne_status s d h with hw | hw <;> simp [hw, hwerr, h]

/-- Settles O44, by what a write does to WERR; the core's turn keeps it and reset clears it. -/
theorem droppedWritesSetWerr : Obligations.DroppedWritesSetWerr :=
  ⟨fun _ r d hb hr => hostWrite_guarded_busy hb (.inl ⟨r, hr, rfl⟩) d,
    fun _ k _ d hb hk => hostWrite_guarded_busy hb (.inr ⟨k, hk⟩) d,
    fun _ off d hb hwerr => hostWrite_werr_idle hb hwerr off d,
    fun _ _ h => (coreTurn_keepsRest h).werr,
    fun _ => rfl,
    fun _ off d hwerr => hostWrite_clears_werr hwerr off d⟩

theorem irq_of_done {s : State} (h : s.done = true) : s.irq = s.ie := by simp [State.irq, h]

theorem irq_of_not_done {s : State} (h : s.done = false) : s.irq = false := by simp [State.irq, h]

/-- Settles O49: a completion sets DONE and keeps CTRL.IE; each write clears one of the two. -/
theorem interruptFollowsDone : Obligations.InterruptFollowsDone := by
  refine ⟨fun s => Bool.and_eq_true_iff, fun s t w hw ht => ?_, fun s d hd => ?_, fun s w hidle => ?_, fun s d hd => ?_⟩
  · obtain ⟨_, hdone⟩ := coreTurn_idle_done (busy_of_pending hw) ht
    rw [irq_of_done hdone, (coreTurn_keepsRest ht).ie]
  · rw [hostWrite_status d rfl]
    exact irq_of_not_done (by simp [hd])
  · have hissue : s.hostWrite 0x10 w = (s.issue w, .okay) := hostWrite_guarded_idle hidle .cmd w rfl
    rw [hissue]
    exact irq_of_not_done rfl
  · have hctrl : s.hostWrite 0x00 d = ({ s with ie := d.getLsbD 0 }, .okay) := hostWrite_off s .ctrl d
    rw [hctrl, hd]
    rfl

end Sys2Proof.Machine
end

section
/-! PROOFS. Reset (spec/70_reset_and_hazards.md R270, R271) and the operands of a command in flight (R273, R274). -/

namespace Sys2Proof.Machine

/-- While BUSY = 1 a HostWrite reaches CTRL.IE, DONE and WERR only (10_state.md R25, R26; 60_exceptions.md R244). -/
theorem hostWrite_busy_frame {s : State} (hb : s.busy = true) (off : Offset) (d : Word) :
    ∃ ie done werr, (s.hostWrite off d).1 = { s with ie := ie, done := done, werr := werr } := by
  rcases hostWrite_busy hb off d with h | h | h | h
  · exact ⟨s.ie, s.done, s.werr, h⟩
  · exact ⟨s.ie, s.done, true, h⟩
  · exact ⟨d.getLsbD 0, s.done, s.werr, h⟩
  · exact ⟨s.ie, s.done && !d.getLsbD 1, s.werr && !d.getLsbD 2, h⟩

/-- The host's turn while BUSY = 1: beside those three bits only the host agent itself changes. -/
theorem hostTurn_busy_frame {s : State} (hb : s.busy = true) :
    ∃ ie done werr host, hostTurn s = { s with ie := ie, done := done, werr := werr, host := host } := by
  cases hx : s.hostStmt with
  | none => exact ⟨s.ie, s.done, s.werr, s.host, hostTurn_none hx⟩
  | some x =>
    rw [hostTurn_some hx]
    cases x with
    | rd | bne => exact ⟨s.ie, s.done, s.werr, _, rfl⟩
    | wr off d =>
      obtain ⟨ie, done, werr, hwrite⟩ := hostWrite_busy_frame hb off d
      exact ⟨ie, done, werr, _, congrArg (fun t => State.hostGoes t _ _) hwrite⟩

/-- A step that leaves the command in flight is not the core's and no reset: the core's turn completes the command
(41_sponge.md R147) and reset abandons it (R271). -/
theorem step_inFlight_frame {s t : State} (hb : s.busy = true) (hstep : step s = .next t) (ht : t.busy = true) :
    ∃ ie done werr schedule host,
      t = { s with ie := ie, done := done, werr := werr, schedule := schedule, host := host } := by
  rcases step_cases hstep with ⟨_, rfl⟩ | ⟨_, hcore⟩ | ⟨_, rfl⟩ | ⟨_, rfl⟩
  · exact ⟨t.ie, t.done, t.werr, t.schedule, t.host, rfl⟩
  · obtain ⟨hidle, _⟩ := coreTurn_idle_done (s := s.popTurn) hb hcore
    cases hidle.symm.trans ht
  · obtain ⟨ie, done, werr, host, hturn⟩ := hostTurn_busy_frame (s := s.popTurn) hb
    exact ⟨ie, done, werr, s.schedule.tail, host, hturn⟩
  · cases ht

/-- Settles O13: no operand is among the fields a step with the command still in flight can change. That the steps
interleave by the field `schedule` is the model's choice (log entry 4). -/
theorem operandsFixedWhileBusy : Obligations.OperandsFixedWhileBusy := by
  intro s t hb hstep ht
  obtain ⟨_, _, _, _, _, rfl⟩ := step_inFlight_frame hb hstep ht
  exact ⟨rfl, ⟨rfl, rfl, rfl, rfl⟩, rfl, rfl, rfl, rfl, rfl, rfl, byteAt_congr rfl rfl, rfl, rfl⟩

/-- The default BUF_BYTES, 65536, is a size the spec admits (00_scope.md R5). -/
theorem configDefault_valid : Config.default.valid := by decide

/-- Settles O9: State.reset agrees in every field of the invariant with what a reset turn leaves. -/
theorem resetMeetsInvariant : Obligations.ResetMeetsInvariant :=
  (resetTurn_inv (s := State.reset) configDefault_valid).of_keepsInvFields ⟨rfl, rfl, rfl, rfl, rfl, rfl, id⟩

theorem step_of_nextTurn_reset {s : State} (h : s.nextTurn = some .reset) :
    step s = .next (resetTurn s.popTurn) := by
  simp [step, h]

/-- A buffer that lists no byte reads as free values throughout (log entry 2). -/
theorem byteAt_of_buf_nil {s : State} (h : s.buf = []) (a : Nat) : s.byteAt a = Config.freeByte s.resets a := by
  simp [State.byteAt, Memory.byte?, h]

theorem statusWord_eq_zero {s : State} (hbusy : s.busy = false) (hdone : s.done = false) (hwerr : s.werr = false)
    (herr : s.err = .ok) (hauth : s.authok = false) : s.statusWord = 0 := by
  simp [State.statusWord, hbusy, hdone, hwerr, herr, hauth, ErrCode.code]

theorem ctrlWord_eq_zero {s : State} (hie : s.ie = false) : s.ctrlWord = 0 := by simp [State.ctrlWord, hie]

/-- Settles O14: the reset turn writes every register from State.reset and empties the buffer's list. The free byte
and the turn that asserts reset are the model's form of it (log entries 2, 4 and 7). -/
theorem resetSetsEveryRegister : Obligations.ResetSetsEveryRegister := by
  refine ⟨fun s hnext => ⟨resetTurn s.popTurn, step_of_nextTurn_reset hnext, ?_⟩, ?_⟩
  · exact ⟨rfl, rfl, rfl, rfl, rfl, rfl, rfl, rfl, rfl, rfl, rfl, rfl, rfl, rfl, rfl, ctrlWord_eq_zero rfl,
      statusWord_eq_zero rfl rfl rfl rfl rfl, rfl, rfl, irq_of_not_done rfl, byteAt_of_buf_nil rfl⟩
  · exact ⟨rfl, rfl, rfl, rfl, rfl, rfl, rfl, rfl, rfl, rfl, rfl, ctrlWord_eq_zero rfl,
      statusWord_eq_zero rfl rfl rfl rfl rfl, rfl, rfl, irq_of_not_done rfl, byteAt_of_buf_nil rfl⟩

end Sys2Proof.Machine
end
